-- ==== Sys2Proof/Word.lean ====
section
/-!
DEFINITION. Word.lean: the word types of the block and the sparse tables its arrays are held in.
-/
namespace Sys2Proof

/-- One byte (R5). -/
abbrev Byte := BitVec 8
/-- A 32-bit register value (R8). -/
abbrev Word := BitVec 32
/-- A 64-bit register value (R8). -/
abbrev DWord := BitVec 64

/-- A sparse array: entries in rising order of key, absent keys at the array's default. -/
abbrev Tbl (α : Type) := List (Nat × α)

/-- Reads entry `k` of a table whose absent entries read as `d`. -/
def Tbl.getD {α : Type} : Tbl α → α → Nat → α
  | [], d, _ => d
  | (a, v) :: r, d, k => if a = k then v else Tbl.getD r d k

/-- Stores `v` in entry `k`, keeping the order of keys. -/
def Tbl.put {α : Type} : Tbl α → Nat → α → Tbl α
  | [], k, v => [(k, v)]
  | (a, w) :: r, k, v =>
    if k < a then (k, v) :: (a, w) :: r
    else if a = k then (k, v) :: r
    else (a, w) :: Tbl.put r k v

/-- The keys a table holds entries for, rising. -/
def Tbl.keys {α : Type} (t : Tbl α) : List Nat := t.map Prod.fst

end Sys2Proof
end

