-- ==== Sys2Proof/Syntax.lean ====
section
/-!
DEFINITION. Syntax.lean: the commands of the block, one constructor per row of spec/opcode_table.json.
The table gives its rows no operands: each constructor carries what its sender supplies. `port` is the mesh port of a
control-space access (R310; the number BAYS stands for the debug access path, R458). `sts`, `psn` and `data` are a
response's status (Table 12.5), poison bits (R408) and bytes (DESIGN CHOICE, log 1).
-/
namespace Sys2Proof

/-- A link flit's header fields and payload (Tables 6.3 and 6.4), its CRC aside (R169). -/
structure Flit where
  kind : Nat
  vc : Nat
  seq : Nat
  ack : Nat
  up : Bool
  /-- the reserved header bit 63 -/
  rsv : Bool
  /-- cumulative credit returns, VC0 to VC3 -/
  crd : List Nat
  xid : Nat
  last : Bool
  pmask : BitVec 15
  payload : List Byte
  deriving DecidableEq, Repr

/-- A response of a mesh or stack port: status, poison bits, bytes (Table 12.5, R408). -/
structure Resp where
  sts : BitVec 2
  psn : BitVec 5
  data : List Byte
  deriving DecidableEq, Repr

/-- The commands of the block. -/
inductive Instr where
  -- data and link instructions: the engine works on the entry at position pos of queue q (DESIGN CHOICE, log 7)
  | move (q pos : Nat)
  | fill (q pos : Nat)
  | cast (q pos : Nat)
  | pack (q pos : Nat)
  | unpack (q pos : Nat)
  | gather (q pos : Nat)
  | scatter (q pos : Nat)
  | scatterAdd (q pos : Nat)
  | contract (q pos : Nat)
  | linkput (q pos : Nat)
  | linkreduceSend (q pos : Nat)
  | linkreduceHome (q pos : Nat)
  | mcast (q pos : Nat)
  -- program control at the front of queue q
  | fenceFull (q : Nat)
  | fenceReads (q : Nat)
  | fenceReadsRetire (q pos : Nat)
  | fenceNone (q : Nat)
  | signal (q : Nat)
  | await (q : Nat)
  | tickwaitRelative (q : Nat)
  | tickwaitAligned (q : Nat)
  | link (q : Nat)
  | nop (q : Nat)
  -- admin commands, carried out by the granger
  | createQueue
  | destroyQueue
  | setClass
  | setRt
  | loadCodebook
  | loadCodebookDone (timeout : Bool) (r : Resp)
  | invalidateEntries
  | bindTally
  | shootdownMap
  | shootdownComplete (n : Nat)
  | query
  | adminCommandFetch (timeout : Bool) (r : Resp)
  | adminCompletion
  | adminIndexWriteResponse (sts : BitVec 2)
  | adminQueueEnable (port : Nat) (value : Word)
  | adminQueueDisable (port : Nat)
  | admStrike (port : Nat)
  -- work queues
  | qStrike (port q : Nat)
  | indexBlockReadReturn (q : Nat) (r : Resp)
  | entryFetch (q : Nat) (two : Bool)
  | entryFetchReturn (q pos : Nat) (r : Resp)
  | fetchTimeout (q : Nat) (entryRead : Bool) (pos : Nat)
  | push (port q off : Nat) (data : List Byte)
  | enable (port q : Nat)
  | disable (port q : Nat)
  | abort (port q : Nat)
  -- streams and completion
  | partDispatch (bay : Nat)
  | winnowRecordWrite (q pos : Nat)
  | completionArrival (q pos : Nat)
  | progressArrival (q pos : Nat)
  | headWrite (q : Nat)
  | headWriteResponse (q : Nat) (sts : BitVec 2)
  | queueStructureWriteTimeout (q : Nat)
  | ownerMaskRise (pwr : Bool) (core : Nat)
  -- memory and translation
  | readResponse (bay tag : Nat) (r : Resp)
  | writeResponse (bay tag : Nat) (sts : BitVec 2)
  | fillBeat (slice line beat : Nat) (r : Resp)
  | translationRequest (bay va : Nat)
  | translationCompletion (bay req : Nat) (sts : BitVec 2) (addr : Nat) (size : Nat) (r w : Bool)
  | atsInvalidationRequest (addr log2 itag : Nat)
  -- ticks
  | tick
  | tickInEdge
  | internalTick
  | tickSourceLost
  -- tallies
  | tallyArrive (port t : Nat) (kind : BitVec 2) (count : BitVec 16)
  | tallyRelease (port t : Nat)
  | tallyLoad (port t : Nat) (value : BitVec 20)
  | tallyPlainFire (port t : Nat)
  | watchdogArm (port t : Nat) (value : Word)
  | talFaultClear (port t : Nat)
  | tallyWatchdogExpiry (t : Nat)
  -- host channels
  | hstDoorbell (port c : Nat) (kind : BitVec 2) (count : BitVec 16)
  | hostNotify (c : Nat)
  | hostNotifyResponse (c : Nat) (timeout : Bool) (sts : BitVec 2)
  -- signal distributor
  | signalSourceInput (src : Nat) (value : Bool)
  | vectorOffer (core : Nat)
  | vectorTransfer (core : Nat)
  | sigEoi (port : Nat) (value : Word)
  | sigPendSet (port src : Nat)
  | sigPendClr (port src : Nat)
  | sigGlobalEnable (port : Nat) (value : Word)
  | distributorClockRestart
  -- faults
  | fltAck (port : Nat) (value : Word)
  | fltInject (port : Nat) (value : Word)
  | fltSrcCfgWrite (port src : Nat) (value : Word)
  | safeStateEntry
  | recovery
  | bayFault (bay cause ctx : Nat)
  | bayClearDone (bay : Nat)
  | grangerFault (cause : Nat) (pc : Word)
  | grangerRestart
  | eccCorrected (structure_ unit word : Nat)
  | eccUncorrectable (structure_ unit word : Nat) (q pos : Nat)
  -- link ports
  | linkEnable (port n : Nat) (value : Word)
  | linkReset (port n : Nat) (value : Word)
  | phyUpRise (n : Nat)
  | helloTimer (n : Nat)
  | transmitFlit (n : Nat)
  | receiveHello (n : Nat) (f : Flit)
  | receiveIdle (n : Nat) (f : Flit)
  | receiveNak (n : Nat) (f : Flit)
  | receiveBadFlit (n : Nat) (rxBad : Bool) (raw : List Byte)
  | nakRepeatTimer (n : Nat)
  | receiveOpenPut (n : Nat) (f : Flit)
  | receiveOpenReduce (n : Nat) (f : Flit)
  | receiveData (n : Nat) (f : Flit)
  | receiveResp (n : Nat) (f : Flit)
  | receiveCancel (n : Nat) (f : Flit)
  | receiveStreamComplete (n xid : Nat)
  | peerLost (n : Nat)
  | creditStall (n vc : Nat)
  | remoteTimeout (n xid : Nat) (receiver : Bool)
  | multicastDetach (q pos idx : Nat)
  | busyRetry (q pos : Nat)
  | reduceBinUnavailable (q pos : Nat)
  | reduceBinIdleAbandon (rid : Nat)
  | binResultWrite (rid : Nat)
  -- bay power
  | bayIdleEntry (bay : Nat)
  | bayNapEntry (bay : Nat)
  | bayDormantEntry (bay : Nat)
  | bayWake (bay : Nat)
  | bayWakeDone (bay : Nat)
  | bayWakeForWaitingPart (bay : Nat)
  | engLatTolWrite (port : Nat) (value : Word)
  -- start-up, resets, freeze and debug
  | fwLoad (port : Nat) (image : List Byte)
  | fwReuse (port : Nat)
  | fwDigestCheck
  | imageReadFailure (timeout : Bool)
  | selfTestPass
  | selfTestFail (cause bay : Nat)
  | selfTestTimeout
  | coldReset
  | warmReset
  | cribStatRecomputeDone
  | freeze
  | debugRead (space addr : Nat)
  | debugWrite (space addr : Nat) (data : DWord)
  | debugReadAdvance (space addr : Nat)
  -- control space
  | granInvAll (port : Nat)
  | stackDecodeWrite (port which : Nat) (value : DWord)
  | engTickCfgWrite (port : Nat) (value : Word)
  | cribWrite (port off size : Nat) (value : DWord)
  | queueCounterWrite (port q : Nat) (clip : Bool) (value : DWord)
  | halfWrite64 (port off : Nat) (value : Word)
  | lowHalfReadCapture (port off : Nat)
  | qElemCntRead (port q : Nat) (size : Nat)
  | rcCounterRead (port off size : Nat)
  | registerWrite (port off size : Nat) (value : DWord)
  | coreMaskFall (pwr : Bool) (core : Nat)
  | tapControllerReset
  | rtBudgetExhausted (q : Nat)
  deriving DecidableEq, Repr

end Sys2Proof
end

