-- ==== Sys2Proof/Decode.lean ====
section
/-! DEFINITION. Decode.lean: the command a table word spells. -/
namespace Sys2Proof

/-- spec/opcode_table.json gives no row any bits: a word spells no command. DESIGN CHOICE, log 15. -/
def decodeTableWord (_nbits _w : Nat) : Option Instr := none

end Sys2Proof
end

