-- ==== Sys2Proof/Config.lean ====
section
/-!
DEFINITION. Config.lean: what a licensed configuration fixes (R37, Table 1.4), and the free values: what the
manual leaves undefined although the machine goes on.
-/
namespace Sys2Proof

/-- The configuration parameters of Table 1.4. -/
structure Config where
  /-- BAYS -/
  bays : Nat
  /-- LINK_PORTS -/
  linkPorts : Nat
  /-- STACK_PORTS -/
  stackPorts : Nat
  /-- WAKE_WIRES -/
  wakeWires : Nat
  /-- HOST_SIGNAL -/
  hostSignal : Bool
  deriving DecidableEq, Repr

/-- R37: the parameters take the values of Table 1.4, and no others. -/
def Config.valid (c : Config) : Bool :=
  ((c.bays == 16 && (c.linkPorts == 0 || c.linkPorts == 24) && c.stackPorts == 2)
    || (c.bays == 32 && c.linkPorts == 48 && c.stackPorts == 4)
    || (c.bays == 64 && c.linkPorts == 96 && c.stackPorts == 8))
  && decide (64 ≤ c.wakeWires) && decide (c.wakeWires ≤ 2048) && c.wakeWires % 64 == 0

/-- GRANT_MODE (R38): HOLD exactly when BAYS is 16. -/
def Config.grantHold (c : Config) : Bool := c.bays == 16

/-- The reference configuration with 1,024 wake wires and HOST_SIGNAL = 1, the spec's own example of ENG_CFG
(DESIGN CHOICE, log 5). -/
def Config.reference : Config :=
  { bays := 64, linkPorts := 96, stackPorts := 8, wakeWires := 1024, hostSignal := true }

/-- Free byte number `n`: a byte the manual calls not defined (R70, R117, R137; DESIGN CHOICE, log 9). -/
opaque Config.freeByte : Nat → BitVec 8
/-- Which of several covering map-cache entries a bay uses for an address in a GCLK (R244; DESIGN CHOICE, log 9). -/
opaque Config.freePick : Nat → Nat → Nat
/-- cq_id of a mesh port's n-th access, an input that the commands do not carry (R420; DESIGN CHOICE, log 38). -/
opaque Config.cqId : Nat → Nat → Nat
/-- The port-local address of a stack address beyond the reach of a port (R415; DESIGN CHOICE, log 9). -/
opaque Config.freeLpa : Nat → Nat
/-- Free 64-bit word for a debug read of contents whose layout the manual does not give (DESIGN CHOICE, log 9). -/
opaque Config.freeDWord : Nat → BitVec 64

end Sys2Proof
end

