-- ==== Sys2Proof/Machine/State.lean ====
section
/-!
DEFINITION. State.lean: the state of the block as plain data, unit by unit, and the state after cold reset.
A count is a Nat that its operations saturate or wrap as its rule says; a register that software writes whole is a bit vector.
-/
namespace Sys2Proof.Machine

/-- Bytes of a RAM of the block (the crib, the granger's memory), addresses rising, no entry equal to zero, which is
what an unlisted address reads as: both arrays are cleared to zero by cold reset (R98, R443). -/
abbrev Memory := List Host.Cell

/-- A write that the front end has issued and that waits for its response (R303, R365). -/
structure FeWrite where
  addr : Nat
  data : List Byte
  /-- GCLK by which its response must come -/
  due : Nat
  deriving DecidableEq, Repr

/-- What a front-end request carries: the index block, entries, a head write of a work queue; the index block, its write, a command, a
completion entry of the admin queue; a codebook, a host notification, a piece of the firmware image (R413). -/
inductive FeUse where
  | index (q : Nat)
  | entries (q pos : Nat)
  | head (q : Nat)
  | admIndex
  | admIndexWr
  | admCmd
  | admCpl
  | codebook
  | host (c : Nat)
  | image (off : Nat)
  deriving DecidableEq, Repr

/-- A front-end request outstanding at a port (R406, R413, R416). -/
structure FeReq where
  use : FeUse
  /-- the mesh port that its traffic belongs to -/
  lane : Nat
  /-- the stack port and the port-local address that serve it instead (R414) -/
  stk : Option (Nat × Nat) := none
  /-- its front-end request number, 0 to 15 -/
  tag : Nat := 0
  we : Bool
  addr : Nat
  len : Nat
  /-- GCLK by which its response must come (R287) -/
  due : Nat
  /-- it carries more of the request before it -/
  more : Bool := false
  /-- what it is for was discarded: its response will be dropped -/
  gone : Bool := false
  deriving DecidableEq, Repr

/-! ### Engine globals (13, 14) -/

/-- ENG_STATE.state (Table 13.1). -/
inductive EngState where
  | cold | load | test | service | safe | frozen
  deriving DecidableEq, Repr

/-- Engine globals: ENG_ registers, the granger and the start-up sequence. -/
structure Eng where
  state : EngState := .cold
  cause : Nat := 0
  warm : Bool := false
  imgKept : Bool := false
  skipTest : Bool := false
  latTol : Word := 40#32
  fwBase : DWord := 0#64
  fwLen : BitVec 21 := 0#21
  testBase : DWord := 0#64
  testBays : DWord := 0#64
  /-- ENG_FW_DIGEST0 to 11 -/
  digest : Tbl Word := []
  collide : Nat := 0
  fetchTimeout : BitVec 16 := 1000#16
  /-- granger memory of 1 MiB (13) -/
  gmem : Memory := []
  /-- the granger is held in reset -/
  gHeld : Bool := true
  /-- GCLK in which a granger fault began (R398) -/
  gFaultAt : Option Nat := none
  /-- the image lies in granger memory and is being hashed (R437) -/
  hashing : Bool := false
  /-- the load in progress is a reuse load (R435) -/
  reuse : Bool := false
  /-- image bytes whose reads have been issued (R436) -/
  imgAt : Nat := 0
  /-- GCLK in which a waiting part last woke a bay (R446) -/
  lastWake : Option Nat := none
  /-- GCLK in which the current LOAD or TEST began -/
  since : Nat := 0
  deriving DecidableEq, Repr

/-- The tick sources (01). -/
structure Tick where
  /-- ENG_TICK -/
  count : DWord := 0#64
  /-- ENG_TICK_CFG.src_internal, as written and as acting since the last tick (R31) -/
  srcInternal : Bool := false
  intPeriod : Nat := 70000
  actInternal : Bool := false
  actPeriod : Nat := 70000
  /-- ENG_TICK_CFG.ext_active -/
  ext : Bool := false
  /-- consecutive legal edges counted (R29) -/
  edges : Nat := 0
  lastEdge : Option Nat := none
  /-- GCLK of the last tick, or of leaving reset (R30) -/
  lastTick : Nat := 0
  deriving DecidableEq, Repr

/-! ### Queues (08) -/

/-- Q_STATE.state (Table 8.4). -/
inductive QState where
  | absent | disabled | enabled | draining | error
  deriving DecidableEq, Repr

/-- What has become of an entry between the head and the fetch position. -/
inductive SlotSt where
  /-- waits for its fetch check (R102, R197) -/
  | checking
  /-- a LINK at the fetch position whose target the fetcher has not yet taken (R279) -/
  | link
  | fetched
  | dispatched
  | retired
  | aborted
  deriving DecidableEq, Repr

/-- One entry of the window from h to f. -/
structure Slot where
  pos : Nat
  addr : Nat
  /-- the 128 bytes as one little-endian number -/
  raw : Nat
  st : SlotSt
  /-- ENG_TICK when it was fetched or pushed (R274) -/
  tick : Nat
  /-- GCLK in which it was fetched or pushed (R227) -/
  at_ : Nat := 0
  /-- its deadline has been missed (R275) -/
  missed : Bool := false
  /-- GCLK in which it reached the front (R347 to R349) -/
  frontAt : Option Nat := none
  /-- ticks counted since it reached the front -/
  waited : Nat := 0
  /-- the tick that releases a TICKWAIT has been counted -/
  go : Bool := false
  /-- MCAST: the receiver list as read (R197) -/
  list : Option (List Byte) := none
  /-- MCAST: the list came back poisoned, with an error, or faulted -/
  listBad : Bool := false
  /-- LINKREDUCE send: rchip was this engine's own at the fetch check (R339) -/
  local_ : Bool := false
  /-- it was pushed, not fetched (R290) -/
  pushed : Bool := false
  /-- the fetcher has taken it as an entry that is no LINK (R280) -/
  taken : Bool := false
  deriving DecidableEq, Repr

/-- A fetch of one or two entries that waits for its response (R286, R287). -/
structure Fetch where
  pos : Nat
  n : Nat
  addr : Nat
  due : Nat
  deriving DecidableEq, Repr

/-- One work queue. -/
structure Queue where
  state : QState := .absent
  refusedCnt : Nat := 0
  refused : Bool := false
  cached : Bool := false
  strikePend : Bool := false
  errIndex : Nat := 0
  errCause : Nat := 0
  errOff : Nat := 0
  h : Nat := 0
  f : Nat := 0
  p : Nat := 0
  k : Nat := 0
  owner : Nat := 0
  ringBase : Nat := 0
  idxBase : Nat := 0
  headAddr : Nat := 0
  fetchAddr : Nat := 0
  cls : Nat := 0
  rtBudget : Nat := 0
  /-- stream-cycles consumed in the current tick (R272) -/
  rtUsed : Nat := 0
  /-- the budget of the current tick is used up (R272) -/
  rtOut : Bool := false
  elemCnt : Nat := 0
  clipCnt : Nat := 0
  /-- what this GCLK has added to the two counters (R127) -/
  elemNow : Nat := 0
  clipNow : Nat := 0
  win : List Slot := []
  fetches : List Fetch := []
  /-- GCLK by which the outstanding index-block read must be answered -/
  idxRead : Option Nat := none
  /-- LINK entries taken since the last other entry (R280) -/
  linkRun : Nat := 0
  /-- h has advanced since the last head write, since this GCLK (R302) -/
  headDue : Option Nat := none
  /-- GCLK in which h last moved (R344) -/
  headAt : Option Nat := none
  /-- the last retirement moved h, and the head write that follows is not answered yet (R298) -/
  pub : Bool := false
  /-- CREATE_QUEUE's head write is to be issued before its index-block read (R318) -/
  created : Bool := false
  /-- positions and addresses that an INVALIDATE_ENTRIES discarded: fetched again first (R309) -/
  refetch : List (Nat × Nat) := []
  /-- head writes outstanding, oldest first (R302, R303) -/
  headWrs : List FeWrite := []
  /-- the entry cache of a cached queue: slot to entry (R306) -/
  cache : Tbl Nat := []
  deriving DecidableEq, Repr

/-- The admin command in progress and how far it has come (R315). -/
inductive CmdPhase where
  /-- fetched and checked good -/
  | ready
  /-- LOAD_CODEBOOK: the source read is outstanding, to be answered by this GCLK -/
  | reading (due : Nat)
  /-- LOAD_CODEBOOK: its source has been read, badly or with these bytes, while the safe state holds the command (R390) -/
  | read (bad : Bool) (data : List Byte)
  /-- SHOOTDOWN_MAP: waits under R248 -/
  | waiting
  /-- carried out or rejected with this status; its completion is due -/
  | done (status : Nat) (result : Nat)
  /-- its completion entry's write is outstanding -/
  | writing
  /-- its completion entry is written; the index block is due -/
  | written
  /-- the index block's write is outstanding (R319) -/
  | indexing
  deriving DecidableEq, Repr

/-- An admin command: its position and its 64 bytes as one little-endian number. -/
structure AdmCmd where
  pos : Nat
  raw : Nat
  phase : CmdPhase
  deriving DecidableEq, Repr

/-- The admin queue. -/
structure Adm where
  ringBase : DWord := 0#64
  idxBase : DWord := 0#64
  cplBase : DWord := 0#64
  ringLog2 : Nat := 0
  cplLog2 : Nat := 4
  /-- the enabling actions of R312 wait -/
  enableDue : Bool := false
  state : QState := .disabled
  h : Nat := 0
  f : Nat := 0
  p : Nat := 0
  /-- the ring size the indices are counted with while the queue runs -/
  size : Nat := 0
  cplProd : Nat := 0
  cplCons : Nat := 0
  paused : Bool := false
  strikePend : Bool := false
  errIndex : Nat := 0
  errCause : Nat := 0
  idxRead : Option Nat := none
  /-- GCLK by which the outstanding read of the command at f must be answered (R287) -/
  fetch : Option Nat := none
  /-- the write of zero indices that enabling makes is to be issued (R312) -/
  zeroDue : Bool := false
  cmd : Option AdmCmd := none
  /-- index-block writes outstanding, oldest first -/
  idxWr : List FeWrite := []
  /-- the completion entry's write outstanding -/
  cplWr : Option FeWrite := none
  deriving DecidableEq, Repr

/-! ### Faults (11) -/

/-- An event: its source, sub and unit, the instruction's queue and position, its detail (Tables 11.2 to 11.4). -/
structure Ev where
  src : Nat
  sub : Nat := 0
  unit : Nat := 0xFFFF
  inst : Option (Nat × Nat) := none
  detail : Nat := 0
  injected : Bool := false
  deriving DecidableEq, Repr

/-- The fault unit. -/
structure FaultUnit where
  /-- FLT_SRC_CFG as written; absent entries read as Table 11.2 -/
  cfg : Tbl Word := []
  cnt : Tbl Nat := []
  wstart : Tbl Nat := []
  /-- unack and t_open per class: 1 B, 2 C, 3 D -/
  unack : Tbl Bool := []
  tOpen : Tbl Nat := []
  level : Nat := 0
  quiet : Nat := 0
  quietCfg : BitVec 16 := 1000#16
  safe : Bool := false
  testMode : Bool := false
  nextSeq : Nat := 0
  hist : Tbl (BitVec 256) := []
  recovCnt : Nat := 0
  /-- a class D fault was recorded in SERVICE: SAFE is entered in the next GCLK (R390) -/
  safeDue : Bool := false
  /-- the quiet period has ended while the wait of R393 had not (R394) -/
  recDue : Bool := false
  /-- events of this GCLK, in the order of the commands that brought them: they are classified at its end (R382) -/
  evs : List Ev := []
  /-- the command of R394's recovery has come in this GCLK -/
  recover : Bool := false
  /-- classes B and above recorded in this GCLK (R385, R394) -/
  hits : List Nat := []
  /-- writes of this GCLK to the unit's registers, applied at its end: offset and value (R384) -/
  writes : List (Nat × Word) := []
  deriving DecidableEq, Repr

/-! ### Tallies, host channels and the signal distributor (10) -/

/-- A wake binding: its valid bit and its wire (R355). -/
structure Wake where
  valid : Bool := false
  wire : Nat := 0
  deriving DecidableEq, Repr

/-- One tally. -/
structure Tally where
  target : Nat := 0
  count : Nat := 0
  fire : Nat := 0
  fault : Bool := false
  epoch : Nat := 0
  abandon : Nat := 0
  idle : Nat := 0
  armed : Bool := false
  wdog : Nat := 0
  /-- the last tick found the idle count at the watchdog's value (R361) -/
  late : Bool := false
  sigEn : Bool := false
  sigSrc : Nat := 0
  wake0 : Wake := {}
  wake1 : Wake := {}
  wake2 : Wake := {}
  wake3 : Wake := {}
  deriving DecidableEq, Repr

/-- One wake wire: the GCLK of its last firing and of the first of that pulse, and whether it is marked while the outputs are held (R357,
R377). -/
structure Wire where
  firedAt : Option Nat := none
  since : Nat := 0
  marked : Bool := false
  deriving DecidableEq, Repr

/-- What a GCLK brings to one tally: it is applied at the GCLK's end, in the order of R353. -/
structure TalDo where
  /-- a W1C write clears TAL_FAULT (R354) -/
  clear : Bool := false
  /-- TAL_CFG.wd_arm is written (R361) -/
  arm : Bool := false
  /-- BIND_TALLY: the tally as the command binds it (R355) -/
  bind : Option Tally := none
  /-- writes of TAL_FORCE: op and value (R363) -/
  force : List (Nat × Nat) := []
  /-- arrivals of each kind -/
  normal : Nat := 0
  faulted : Nat := 0
  abandoned : Nat := 0
  /-- the watchdog expires (R362) -/
  expire : Bool := false
  deriving DecidableEq, Repr

/-- The tally file. -/
structure TallyFile where
  tally : Tbl Tally := []
  stray : Nat := 0
  wire : Tbl Wire := []
  /-- what this GCLK has brought to each tally (R353) -/
  todo : Tbl TalDo := []
  deriving DecidableEq, Repr

/-- One host channel. -/
structure HostCh where
  valid : Bool := false
  tally : Nat := 0
  cookie : Word := 0#32
  addr : DWord := 0#64
  pending : Bool := false
  /-- the notification outstanding (HST_STAT.busy) -/
  wr : Option FeWrite := none
  errCnt : Nat := 0
  deriving DecidableEq, Repr

/-- One interrupt source. -/
structure Src where
  cfg : Word := 0#32
  vec : DWord := 0#64
  pending : Bool := false
  /-- the pending state was set by SIG_PEND.set (R368) -/
  setp : Bool := false
  active : Bool := false
  /-- a write of this GCLK to SIG_EOI names it: it is inactive from the next one (R370) -/
  eoi : Bool := false
  /-- it has become inactive with this GCLK, in which it is not on offer yet (R370) -/
  fresh : Bool := false
  core : Nat := 0
  /-- the input as last sensed -/
  input : Bool := false
  /-- GCLK of the last pulse on a pulse input -/
  pulseAt : Option Nat := none
  /-- an edge has been sensed in this GCLK (R375) -/
  sensed : Bool := false
  /-- a latched change not yet sensed while the clock is gated (R376): a rise, a fall -/
  rise : Bool := false
  fall : Bool := false
  deriving DecidableEq, Repr

/-- The signal distributor. -/
structure SigUnit where
  enable : Bool := false
  stray : Nat := 0
  src : Tbl Src := []
  /-- iv_valid and iv_src per core -/
  offer : Tbl (Option Nat) := []
  /-- the distributor's own clock runs (R376) -/
  clockOn : Bool := false
  /-- the level inputs that were 1 in the GCLK before (R367, R368) -/
  prev : List Nat := []
  deriving DecidableEq, Repr

/-! ### Instructions in flight (02 to 07) -/

/-- The sides of R251. -/
inductive Side where
  | source | dest | index | operand | scale | other
  deriving DecidableEq, Repr

/-- One input of an arbiter: its loss count, and whether it holds a grant (R261, R265). -/
structure ArbIn where
  loss : Nat := 0
  hold : Bool := false
  deriving DecidableEq, Repr

/-- The inputs of an arbiter that have lost a round or hold a grant, by number (Table 7.5); the others have neither. -/
abbrev Arb := Tbl ArbIn

/-- A read that an instruction still has to issue: `grp` numbers the merged run or array it belongs to, `ord` orders the
requests of a side (R251), `elem` is the first element of the stream it feeds, `n` its place in its part's order (R230). -/
structure RdReq where
  side : Side
  grp : Nat
  ord : Nat
  elem : Nat
  part : Nat
  va : Nat
  len : Nat
  lock : Bool := false
  n : Nat := 0
  deriving DecidableEq, Repr

/-- One port request: address, length, physical address (R247). -/
structure Piece where
  va : Nat
  len : Nat
  pa : Nat
  deriving DecidableEq, Repr

/-- Bytes that have landed for an instruction: poison per 64-byte block, bit 0 the block of the first byte. -/
structure Landed where
  side : Side
  grp : Nat
  va : Nat
  data : List Byte
  psn : BitVec 5
  /-- first element of the stream that its first byte feeds -/
  elem : Nat := 0
  deriving DecidableEq, Repr

/-- A write that an instruction still has to issue. -/
structure WrReq where
  side : Side
  ord : Nat
  elem : Nat
  part : Nat
  va : Nat
  data : List Byte
  psn : BitVec 5
  lock : Bool := false
  /-- MCAST: the receiver it is for -/
  rcv : Nat := 0
  deriving DecidableEq, Repr

/-- A data read that holds a tracker entry (R230): `req` names the bytes of its port request, whose physical address is `pa`. -/
structure Read where
  bay : Nat
  tag : Nat
  flight : Nat
  req : RdReq
  pa : Nat
  /-- the port request waits for its grant at the port (R261) -/
  wait : Bool := false
  /-- the beats of granary fills it waits for: slice, line, beat (R255, R257); none for a mesh read -/
  beats : List (Nat × Nat × Nat) := []
  /-- port requests of the same request still to be made (R247), and the bytes of it before this one -/
  rest : List Piece := []
  off : Nat := 0
  deriving DecidableEq, Repr

/-- A data write that holds a write tag (R230). -/
structure Write where
  bay : Nat
  tag : Nat
  flight : Nat
  req : WrReq
  pa : Nat
  /-- the port request waits for its grant at the port (R261) -/
  wait : Bool := false
  /-- the write slot of its stack sub-channel (R416) -/
  slot : Option Nat := none
  /-- port requests of the same request still to be made, each with its physical address (R247), and the bytes of it before this
  one -/
  rest : List (WrReq × Nat) := []
  off : Nat := 0
  deriving DecidableEq, Repr

/-- A locked granule (R267, R268), with what its locked read has returned. -/
structure Lock where
  bay : Nat
  flight : Nat
  part : Nat
  granule : Nat
  /-- the granule's number by virtual address -/
  va : Nat
  data : Option (List Byte) := none
  deriving DecidableEq, Repr

/-- An accumulator: the unbounded sum and the flag byte of Table 5.4. -/
structure Acc where
  s : Int := 0
  fl : Nat := 0
  deriving DecidableEq, Repr

/-- A part of an instruction: its bay, its context once dispatched, its loft. -/
structure Part where
  bay : Nat
  ctx : Option Nat := none
  loft : Nat := 0
  /-- GCLK since which it has waited -/
  since : Nat := 0
  /-- it has given up its context: retired, or aborted -/
  gone : Bool := false
  cut : Bool := false
  /-- CONTRACT: the accumulators its loft holds once its terms are all in (R151) -/
  accs : List Acc := []
  deriving DecidableEq, Repr

/-- One shape (Table 2.1); a destination shape has no starts or extents. -/
structure Shape where
  base : Nat
  run : Nat
  cnt1 : Nat
  cnt2 : Nat
  cnt3 : Nat
  step1 : Int
  step2 : Int
  step3 : Int
  start0 : Int := 0
  start1 : Int := 0
  start2 : Int := 0
  start3 : Int := 0
  ext0 : Nat := 0
  ext1 : Nat := 0
  ext2 : Nat := 0
  ext3 : Nat := 0
  deriving DecidableEq, Repr

/-- A fault an instruction keeps for its record (R251): source 1 write, 2 read, 3 page. -/
structure SideFault where
  src : Nat
  side : Side
  ord : Nat
  /-- the address as issued; of a page fault, the virtual address -/
  detail : Nat
  /-- bytes that a page fault affects -/
  len : Nat
  bay : Nat
  /-- place of the failing port request in its request -/
  off : Nat := 0
  deriving DecidableEq, Repr

/-- A landing slot that holds its tracker entry until the data before it have come (R230): its part, entry and place in the
part's order. -/
structure Landing where
  part : Nat
  tag : Nat
  n : Nat
  deriving DecidableEq, Repr

/-- A link transfer of a sending instruction (R194, R198, R204), or a local receiver or send, which uses no port. -/
structure Xfer where
  port : Nat
  xid : Nat
  loc : Bool := false
  /-- receiver list index of an MCAST -/
  idx : Nat := 0
  /-- GCLK of its first OPEN (R206) -/
  firstAt : Nat
  /-- GCLK of its last progress, for the remote timeout (R218) -/
  lastAt : Nat
  /-- RESP status once answered; 2 also when it was cut off -/
  result : Option Nat := none
  /-- GCLK of a BUSY answer (R206) -/
  busyAt : Option Nat := none
  /-- some transfer of this send was answered BUSY, and the numbers of those transfers (R206) -/
  busy : Bool := false
  old : List Nat := []
  /-- bytes of its stream sent in DATA flits (R199) -/
  sent : Nat := 0
  /-- MCAST: GCLK since which the receiver has stalled (R200) -/
  stallAt : Option Nat := none
  detached : Bool := false
  deriving DecidableEq, Repr

/-- What the OPEN of a receive stream carried (Table 6.5) and what its DATA flits brought. -/
structure RxOpen where
  port : Nat
  xid : Nat
  /-- the channel of its OPEN, which its DATA flits share (R171) -/
  vc : Nat := 0
  fmt : Nat
  elems : Nat
  rtally : Option Nat
  shape : Shape
  walk : Nat
  bytes : List Byte := []
  /-- poison mark per 16-byte chunk -/
  chunks : List Bool := []
  lastSeen : Bool := false
  /-- GCLK of the last flit -/
  at_ : Nat
  /-- ended by a CANCEL, a timeout, a cut-off or the safe state (R202) -/
  ended : Bool := false
  deriving DecidableEq, Repr

/-- How far an instruction has come. -/
inductive Stage where
  /-- index, operand and receiver reads -/
  | first
  /-- source and scale reads -/
  | second
  /-- results produced: writes to issue or to be answered -/
  | writing
  /-- the winnow record's write is outstanding (R124) -/
  | recording
  /-- every part retired: the arrival is due (R233) -/
  | complete
  deriving DecidableEq, Repr

/-- One instruction in flight, or one receive stream (R195). -/
structure Flight where
  id : Nat
  q : Nat
  pos : Nat
  raw : Nat
  rx : Option RxOpen := none
  stage : Stage := .first
  parts : List Part := []
  todo : List RdReq := []
  land : List Landed := []
  /-- landing slots that hold their tracker entries (R230) -/
  slots : List Landing := []
  wtodo : List WrReq := []
  /-- SCATTER_ADD: the next addition; LINKREDUCE local: whether it has joined its bin; MCAST: elements handed to its receivers -/
  seq : Nat := 0
  faults : List SideFault := []
  /-- how many of them have been recorded: when the instruction was cut off (R251) -/
  recd : Nat := 0
  /-- a condition of Table 7.4 occurred -/
  bad : Bool := false
  /-- the first element affected by such a condition (R242) -/
  badFrom : Option Nat := none
  cut : Bool := false
  missed : Bool := false
  elem : Nat := 0
  /-- CONTRACT: the output elements that count as written with psn clear (Table 5.8) -/
  sound : List Bool := []
  clip : Nat := 0
  degen : Nat := 0
  nonfin : Nat := 0
  /-- poisoned granules of the destination, by number -/
  psnGran : List Nat := []
  /-- progress arrivals delivered -/
  prog : Nat := 0
  xfers : List Xfer := []
  /-- MCAST: the receiver list (R197) -/
  list : List Byte := []
  /-- LINKREDUCE send: rchip was this engine's own at the fetch check (R339) -/
  local_ : Bool := false
  deriving DecidableEq, Repr

/-! ### Bays (07, 13) -/

/-- BAY_PWR.state (Table 13.5). -/
inductive Pwr where
  | active | idle | nap | dormant
  deriving DecidableEq, Repr

/-- A map-cache entry: page base, cp_size code, physical page base (R244). -/
structure MapEnt where
  va : Nat
  size : Nat
  pa : Nat
  deriving DecidableEq, Repr

/-- A range of an invalidation: bytes lo to hi − 1, or every entry. -/
structure InvRange where
  all : Bool
  lo : Nat
  hi : Nat
  deriving DecidableEq, Repr

/-- One bay. -/
structure Bay where
  pwr : Pwr := .active
  /-- GCLK since which the bay is in its power state, or has held nothing while Active (R444) -/
  since : Nat := 0
  /-- GCLK in which a wake in progress ends -/
  waking : Option Nat := none
  wakeCnt : Nat := 0
  rdCnt : Nat := 0
  wrCnt : Nat := 0
  missCnt : Nat := 0
  /-- the issue arbiter's inputs, stream contexts by number, for reads and for writes (Table 7.5) -/
  rdArb : Arb := []
  wrArb : Arb := []
  /-- an emergency requester holds the issue arbiter in this GCLK (R264) -/
  emerg : Bool := false
  /-- context numbers held -/
  ctxs : List Nat := []
  /-- loft bytes granted -/
  loft : Nat := 0
  /-- every word of the loft reads 0: nothing has been granted of it since it was cleared or powered down (R397, R443, Table 13.5) -/
  loftClear : Bool := true
  /-- wait order of parts (R228): flight and part number -/
  waits : List (Nat × Nat) := []
  /-- map cache, most recently used first -/
  mapc : List MapEnt := []
  /-- translation requests outstanding: request number and 4 KiB page (R245) -/
  xl : List (Nat × Nat) := []
  /-- invalidations to apply on waking (R447) -/
  defer : List InvRange := []
  /-- masked by a bay fault (R396) -/
  faulted : Bool := false
  /-- GCLK in which the clearing of R397 began -/
  clearAt : Option Nat := none
  deriving DecidableEq, Repr

/-- An invalidation accepted and not completed (R248, R425): none for SHOOTDOWN_MAP, else the ITag. -/
structure Inv where
  itag : Option Nat
  range : InvRange
  /-- reads and writes awaited, by bay and tag -/
  reads : List (Nat × Nat)
  writes : List (Nat × Nat)
  deriving DecidableEq, Repr

/-! ### Links (06) -/

/-- LNK_STATE.state (R179). -/
inductive PortState where
  | down | hello | up | fenced
  deriving DecidableEq, Repr

/-- One link port. -/
structure Port where
  state : PortState := .down
  incarn : Nat := 0
  fenceCause : Nat := 0
  phyUp : Bool := false
  enable : Bool := false
  rxClass : Nat := 4
  peerValid : Bool := false
  peerKind : Nat := 0
  peerPort : Nat := 0
  peerId : Nat := 0
  peerIncarn : Nat := 0
  /-- advertised credits, VC flits sent, cumulative returns seen, per VC (R189) -/
  adv : List Nat := [0, 0, 0, 0]
  sent : List Nat := [0, 0, 0, 0]
  seen : List Nat := [0, 0, 0, 0]
  /-- own cumulative returns per VC, and slots of received flits not yet freed -/
  ret : List Nat := [0, 0, 0, 0]
  nextSeq : Nat := 0
  ack : Nat := 0
  /-- replay buffer, oldest first (R184) -/
  replay : List Flit := []
  /-- flits still to be resent (R185) -/
  resend : List Flit := []
  confirmed : Bool := false
  /-- a bad flit was received and the expected one has not arrived (R185) -/
  recover : Bool := false
  nakDue : Bool := false
  nakCnt : Nat := 0
  nakAt : Nat := 0
  /-- a HELLO is due: the timer's or an answer (R179, R182) -/
  helloDue : Bool := false
  helloAt : Nat := 0
  /-- GCLK of the last good flit (R216) -/
  goodAt : Nat := 0
  crcCnt : Nat := 0
  replayCnt : Nat := 0
  /-- flits waiting per VC -/
  tx0 : List Flit := []
  tx1 : List Flit := []
  tx2 : List Flit := []
  tx3 : List Flit := []
  /-- VC2 goes next when VC0 and VC2 are both ready (R187) -/
  turn2 : Bool := false
  /-- the arbiter's inputs for OPEN and DATA flits, bays by number (Table 7.5) -/
  arb : Arb := []
  /-- GCLK since which a VC has had flits waiting and no credit (R218), per VC -/
  stall : List (Option Nat) := [none, none, none, none]
  /-- OPEN flits of VC0 that wait for a context (R195), each with the DATA behind it -/
  held : List Flit := []
  /-- the last flit sent, as its 256 bytes -/
  tx : List Byte := []
  nextXid : Nat := 0
  /-- the channel of the OPEN of each transfer that the port receives, by xid, until its last DATA flit or its CANCEL (R171) -/
  opens : Tbl Nat := []
  deriving DecidableEq, Repr

/-- A reduction bin (R205, R207). -/
structure Bin where
  rid : Nat
  pcnt : Nat
  rede : Nat
  accExp : Int
  /-- format code, 32 for raw, none while unset -/
  mark : Option Nat
  accs : List Acc
  count : Nat := 0
  /-- the dispatched home's flight -/
  home : Option Nat := none
  /-- bays that hold its slices -/
  slices : List Nat := []
  /-- idle ticks (R215) -/
  idle : Nat := 0
  /-- a contribution has entered it, or brought data, in this GCLK -/
  fed : Bool := false
  /-- some contribution was answered FAULTED -/
  faulted : Bool := false
  /-- port of the contribution that opened it, none for a local one, and the sender's chip -/
  port : Option Nat := none
  chip : Nat := 0
  /-- its result is being written -/
  writing : Bool := false
  deriving DecidableEq, Repr

/-- A remote contribution in progress (R207, R208): what its OPEN carried and its DATA flits brought. -/
structure Contrib where
  port : Nat
  xid : Nat
  /-- the channel of its OPEN, which its DATA flits share (R171) -/
  vc : Nat := 2
  /-- src_chip of its OPEN -/
  chip : Nat
  rid : Nat
  /-- format code, 32 for raw -/
  mark : Nat
  elems : Nat
  bytes : List Byte := []
  chunks : List Bool := []
  /-- a condition of Table 7.4 struck it or its bin: it is answered FAULTED (R208) -/
  faulted : Bool := false
  at_ : Nat
  deriving DecidableEq, Repr

/-- The link side of the engine. -/
structure Links where
  self : BitVec 16 := 0xFFFF#16
  timeout : BitVec 16 := 200#16
  mcStall : BitVec 16 := 50#16
  binLimit : Nat := 96
  binIdle : BitVec 16 := 100#16
  port : Tbl Port := []
  bins : List Bin := []
  contribs : List Contrib := []
  deriving DecidableEq, Repr

/-! ### Crib, granary, debug and control space -/

/-- The crib (04). -/
structure Crib where
  mem : Memory := []
  dropCnt : Nat := 0
  /-- the slot of a LOAD_CODEBOOK that waits or runs -/
  loading : Option Nat := none
  /-- the sorted bits are being recomputed after a warm reset (R98) -/
  stale : Bool := false
  deriving DecidableEq, Repr

/-- A granary line (R255): its slice (stack port), line number lpa >> 9, the queue whose miss filled it. -/
structure Line where
  slice : Nat
  line : Nat
  owner : Nat
  data : List Byte
  psn : BitVec 8
  deriving DecidableEq, Repr

/-- A line fill outstanding (R256, R257). -/
structure Fill where
  slice : Nat
  line : Nat
  owner : Nat
  beat0 : Option Resp := none
  beat1 : Option Resp := none
  noAlloc : Bool := false
  /-- its fill slot on the sub-channel, and the lock attribute (R412, R416) -/
  slot : Nat := 0
  lock : Bool := false
  deriving DecidableEq, Repr

/-- A stack port's arbiter: its inputs, bays by number, for reads and for writes (Table 7.5). -/
structure StkArb where
  rd : Arb := []
  wr : Arb := []
  deriving DecidableEq, Repr

/-- The granary and the stack decode (07, 12). -/
structure Gran where
  hitCnt : Nat := 0
  missCnt : Nat := 0
  /-- most recently used first -/
  lines : List Line := []
  fills : List Fill := []
  arb : Tbl StkArb := []
  stkBase : DWord := 0#64
  stkSize : DWord := 0#64
  stkIlv : Nat := 12
  deriving DecidableEq, Repr

/-- The debug access path (13). -/
structure Debug where
  dapCnt : Nat := 0
  /-- an access is an emergency request in this GCLK (R264, R451) -/
  busy : Bool := false
  /-- status, space, address and data that the next Capture-DR loads (Table 13.6) -/
  status : BitVec 4 := 0#4
  space : BitVec 4 := 0#4
  addr : Nat := 0
  data : DWord := 0#64
  /-- what the factory instrument, for which the table has no command, is still to set test_mode to: GCLK and value (R399, R429;
  DESIGN CHOICE, log 32) -/
  factory : List (Nat × Bool) := []
  /-- the TAP controller is in Test-Logic-Reset -/
  tapReset : Bool := true
  deriving DecidableEq, Repr

/-- A response to a control-space access: cr_id and cr_data (R420), and whether the access has been applied (R421). -/
structure CsResp where
  id : Nat
  data : DWord
  done : Bool := true
  deriving DecidableEq, Repr

/-- The control-space ports' own state (R11, R12, R128, R420), by mesh-port number. -/
structure Cs where
  low : Tbl (Option (Nat × Word)) := []
  hi : Tbl (Option (Nat × Word)) := []
  clip : Tbl (Option (Nat × DWord)) := []
  /-- responses of a port that have not been presented, in the order of acceptance: at most eight (R421) -/
  resp : Tbl (List CsResp) := []
  /-- the last response that a port has presented (R420, R421) -/
  last : Tbl CsResp := []
  /-- how many accesses a port has accepted: the next one's cq_id is an input, for which the table has no operand (DESIGN CHOICE, log 38) -/
  id : Tbl Nat := []
  /-- write accesses accepted and not granted yet, in the order of acceptance (Table 7.5, R421) -/
  wait : List Instr := []
  /-- the granger's and the debug access path's writes of this GCLK, which follow those of the mesh ports (R310, R458) -/
  late : List Instr := []
  /-- the control-space write arbiter's inputs, mesh ports by number (Table 7.5) -/
  arb : Arb := []
  /-- the writes that this GCLK has granted are being applied -/
  cur : Bool := false
  deriving DecidableEq, Repr

/-- The model's clock: GCLK cycles, the registers written in this one (R310), and the RC registers that a read of this one has cleared
(R456). -/
structure Clk where
  gclk : Nat := 0
  writes : List Nat := []
  seen : List Nat := []
  /-- mesh ports that have had a grant of the control-space write arbiter (Table 7.5) -/
  ports : List Nat := []
  deriving DecidableEq, Repr

/-- The sideband masks: core numbers whose bit is 1 (R426). -/
structure Masks where
  rst : List Nat := []
  pwr : List Nat := []
  deriving DecidableEq, Repr

/-- The whole block but the queue of commands: every register, array, buffer and pin. -/
structure Core where
  cfg : Config
  clk : Clk := {}
  /-- number of the next free value (DESIGN CHOICE, log 9) -/
  free : Nat := 0
  eng : Eng := {}
  tick : Tick := {}
  adm : Adm := {}
  flt : FaultUnit := {}
  sig : SigUnit := {}
  hst : Tbl HostCh := []
  tal : TallyFile := {}
  qs : Tbl Queue := []
  /-- front-end requests outstanding, oldest first -/
  fe : List FeReq := []
  flights : List Flight := []
  nextId : Nat := 0
  reads : List Read := []
  writes : List Write := []
  locks : List Lock := []
  /-- released locks whose granules are still to be written back (R269) -/
  owed : List Lock := []
  bay : Tbl Bay := []
  inv : List Inv := []
  lnk : Links := {}
  crib : Crib := {}
  gran : Gran := {}
  dbg : Debug := {}
  cs : Cs := {}
  /-- falls of phy_up to come, an input for which the table has no command: GCLK and link port (R167; DESIGN CHOICE, log 6) -/
  falls : List (Nat × Nat) := []
  masks : Masks := {}
  deriving DecidableEq, Repr

/-- The whole block, with the queue of commands that wait, and as it stood at the start of the GCLK, which is what a
control-space read returns and what the arbiters read their base classes from (R263, R455). -/
structure State extends Core where
  pending : List Instr := []
  start : Core
  deriving DecidableEq, Repr

/-- The block as it stood at the start of the GCLK. -/
def State.atStart (s : State) : State := { s with toCore := s.start }

/-- The same block at the start of a GCLK. -/
def State.fresh (s : State) : State := { s with start := s.toCore }

/-- What a control-space read sees: the block as it stood at the start of the GCLK (R455); of a frozen block, whose GCLK are over, what
it holds (R451). -/
def State.view (s : State) : State := if s.eng.state = .frozen then s else s.atStart

/-- The block right after cold reset, in configuration `c`: every register at its reset value, every array cleared (R403,
R443). The sideband masks and phy_up are inputs: 0 by DESIGN CHOICE (log 6). -/
def State.resetOf (c : Config) : State := { cfg := c, start := { cfg := c } }

/-- The block right after cold reset in the reference configuration (DESIGN CHOICE, log 5). -/
def State.reset : State := State.resetOf Config.reference

/-- Why the model stops. No meaning of this model raises a fault: what the manual calls a fault is an event of the fault
unit, recorded in the state (R379). -/
inductive Fault where
  /-- raised by no command: stopping here would be safe -/
  | unreachable
  deriving DecidableEq, Repr

/-- Why a command has no meaning. -/
inductive Refusal where
  /-- the command of this mnemonic is not modelled; raised by Dispatch only; safe -/
  | notModelled (mnemonic : String)
  deriving DecidableEq, Repr

end Sys2Proof.Machine
end

