-- ==== Sys2Proof/Machine/Bits.lean ====
section
/-!
DEFINITION. Bits.lean: bit fields, byte order, sign extension, check words (R292, R169) and the image digest (R437).
-/
namespace Sys2Proof.Machine

/-- Bits lo to lo + n − 1 of a number (R6). -/
def bits (v lo n : Nat) : Nat := (v >>> lo) % 2 ^ n

/-- Bit i of a number. -/
def bitAt (v i : Nat) : Bool := v.testBit i

/-- The little-endian number that bytes spell (R5). -/
def leNat : List Byte → Nat
  | [] => 0
  | b :: r => b.toNat + 256 * leNat r

/-- The n bytes of a number, least significant first (R5). -/
def leBytes (v : Nat) : Nat → List Byte
  | 0 => []
  | n + 1 => BitVec.ofNat 8 v :: leBytes (v >>> 8) n

/-- n bytes of a list, from byte i; bytes past its end read as zero. -/
def sliceBytes (l : List Byte) (i n : Nat) : List Byte :=
  (List.range n).map fun j => (l.drop i).getD j 0#8

/-- The n-bit field v as a signed number (R321). -/
def sext (n v : Nat) : Int := if bitAt v (n - 1) then (v : Int) - 2 ^ n else v

/-- The low n bits of a signed number, as stored. -/
def unsext (n : Nat) (v : Int) : Nat := (v % 2 ^ n).toNat

/-- b as a number. -/
def b2n (b : Bool) : Nat := if b then 1 else 0

/-- Adds to a counter of n bits that saturates at all ones (R20). -/
def satAdd (n c d : Nat) : Nat := min (c + d) (2 ^ n - 1)

/-- A counter of n bits as it ends its GCLK: within the GCLK it holds all that the GCLK adds, so that a read that clears it leaves exactly
that (R18, R20, R456). -/
def sat (n c : Nat) : Nat := min c (2 ^ n - 1)

/-- Ceiling of a quotient. -/
def ceilDiv (a b : Nat) : Nat := (a + b - 1) / b

/-- Replaces bits lo to lo + n − 1 of v by f. -/
def setBits (v lo n f : Nat) : Nat := v - (bits v lo n) <<< lo + (f % 2 ^ n) <<< lo

/-- Least set bit of v, searched among its first `fuel` bits. -/
def lowBit (v : Nat) : Nat → Nat
  | 0 => 0
  | fuel + 1 => if v % 2 = 1 then 0 else 1 + lowBit (v / 2) fuel

/-- n steps of the CRC-16 shift register, most significant bit first (R292). -/
def crc16Steps (c : Nat) : Nat → Nat
  | 0 => c
  | n + 1 => crc16Steps (if c.testBit 15 then ((c <<< 1) % 65536) ^^^ 0x1021 else c <<< 1) n

/-- CRC-16/CCITT of bytes, from a register value (R292). -/
def crc16From (c : Nat) : List Byte → Nat
  | [] => c
  | b :: r => crc16From (crc16Steps (c ^^^ (b.toNat <<< 8)) 8) r

/-- The check word of R292 over bytes. -/
def crc16 (l : List Byte) : Nat := crc16From 0xFFFF l

/-- n steps of the reflected CRC-32 register (R169). -/
def crc32Steps (c : Nat) : Nat → Nat
  | 0 => c
  | n + 1 => crc32Steps (if c % 2 = 1 then (c >>> 1) ^^^ 0xEDB88320 else c >>> 1) n

/-- CRC-32 of bytes, from a register value. -/
def crc32From (c : Nat) : List Byte → Nat
  | [] => c
  | b :: r => crc32From (crc32Steps (c ^^^ b.toNat) 8) r

/-- The CRC-32 of IEEE 802.3 over bytes (R169): 0xEDB8_8320 is 0x04C1_1DB7 reflected. -/
def crc32 (l : List Byte) : Nat := crc32From 0xFFFFFFFF l ^^^ 0xFFFFFFFF

/-! ### The image digest (R437) -/

/-- The greatest r with r ^ k ≤ n, found bit by bit from bit b − 1 down, `r` holding the bits found. -/
def rootFrom (k n : Nat) : Nat → Nat → Nat
  | 0, r => r
  | b + 1, r => rootFrom k n b (if (r + 2 ^ b) ^ k ≤ n then r + 2 ^ b else r)

/-- The first 64 bits of the fractional part of the k-th root of p, which is less than 8 (FIPS 180-4, 4.2.3 and 5.3.4). -/
def rootFraction (k p : Nat) : Nat := rootFrom k (p * 2 ^ (64 * k)) 67 0 % 2 ^ 64

/-- The first eighty primes. -/
def digestPrimes : List Nat :=
  (List.range 410).filter fun p => decide (2 ≤ p) && (List.range 21).all fun d => decide (d < 2) || decide (p ≤ d) || p % d != 0

/-- A 64-bit word turned right by n places. -/
def turned (x n : Nat) : Nat := x >>> n + x % 2 ^ n * 2 ^ (64 - n)

/-- What the digest of one message block works on: the eight working words, first to last, and the sixteen schedule words of the
coming rounds, so that no schedule of eighty words is laid out. -/
structure Digesting where
  work : List Nat
  next : List Nat
  deriving DecidableEq, Repr

/-- Sum of words, as a word. -/
def wordSum (l : List Nat) : Nat := l.sum % 2 ^ 64

/-- One round under its constant: the working words move up by one place, and the schedule gains the word sixteen rounds on. -/
def Digesting.round (x : Digesting) (k : Nat) : Digesting :=
  let v (i : Nat) : Nat := x.work.getD i 0
  let w (i : Nat) : Nat := x.next.getD i 0
  let choose := (v 4 &&& (v 5 ^^^ v 6)) ^^^ v 6
  let most := v 0 &&& v 1 ||| v 2 &&& (v 0 ||| v 1)
  let fresh := [v 7, turned (v 4) 14 ^^^ turned (v 4) 18 ^^^ turned (v 4) 41, choose, k, w 0]
  let top := [turned (v 0) 28 ^^^ turned (v 0) 34 ^^^ turned (v 0) 39, most]
  { work := wordSum (fresh ++ top) :: ((x.work.take 7).set 3 (wordSum (v 3 :: fresh)))
    next := x.next.drop 1 ++
      [wordSum [w 0, w 9, turned (w 1) 1 ^^^ turned (w 1) 8 ^^^ (w 1 >>> 7), turned (w 14) 19 ^^^ turned (w 14) 61 ^^^ (w 14 >>> 6)]] }

/-- The eight chaining words after a message block whose sixteen words, in big-endian order of bytes, are `m`. -/
def digestBlock (constants chain m : List Nat) : List Nat :=
  (chain.zip (constants.foldl Digesting.round { work := chain, next := m }).work).map fun (a, b) => wordSum [a, b]

/-- The words of a message: its bytes, a one bit, zeros and its length in bits on 128 bits, to whole blocks of sixteen words. -/
def digestWords (m : List Byte) : List Nat :=
  let len := 8 * m.length
  let zeros := (1024 - (len + 1 + 128) % 1024) % 1024
  let n := len + 1 + zeros + 128
  let whole := leNat m.reverse * 2 ^ (n - len) + 2 ^ (n - len - 1) + len
  (List.range (n / 64)).map fun i => bits whole (n - 64 * (i + 1)) 64

/-- The digest's chaining words over `n` blocks. -/
def digestFrom (constants : List Nat) : Nat → List Nat → List Nat → List Nat
  | 0, chain, _ => chain
  | n + 1, chain, w => digestFrom constants n (digestBlock constants chain (w.take 16)) (w.drop 16)

/-- The SHA-384 digest (FIPS 180-4) of an image, its 48 bytes in output order (R437). -/
def sha384 (m : List Byte) : List Byte :=
  let w := digestWords m
  let start := ((digestPrimes.drop 8).take 8).map (rootFraction 2)
  let six := (digestFrom (digestPrimes.map (rootFraction 3)) (w.length / 16) start w).take 6
  six.flatMap fun x => (List.range 8).map fun i => BitVec.ofNat 8 (x >>> (56 - 8 * i))

end Sys2Proof.Machine
end

