-- ==== Sys2Proof/Machine/Formats.lean ====
section
/-!
DEFINITION. Formats.lean: element formats, exact values, rounding and conversion (03).
A finite value is a sign, a magnitude and a power of two; every operation on values is exact until it is rounded once.
-/
namespace Sys2Proof.Machine

/-- The value of a code: NaN, an infinity, or ±m × 2^e (R76 to R78). −0 is `fin true 0 _`. -/
inductive Val where
  | nan
  | inf (neg : Bool)
  | fin (neg : Bool) (m : Nat) (e : Int)
  deriving DecidableEq, Repr

/-- R73: the codes of Table 3.1. -/
def fmtOk (c : Nat) : Bool := c < 16 || c == 25 || c == 26 || c == 27

/-- The codebook kinds cb2, cb3, cb4, cb8. -/
def fmtIsCb (c : Nat) : Bool := c == 12 || c == 13 || c == 14 || c == 15

/-- The fifteen castable formats (R74). -/
def fmtCastable (c : Nat) : Bool := c < 12 || c == 25 || c == 26 || c == 27

/-- The floating-point formats. -/
def fmtIsFloat (c : Nat) : Bool := c < 8

/-- Element width in bits (Table 3.1). -/
def fmtWidth (c : Nat) : Nat :=
  match c with
  | 0 => 32 | 1 => 16 | 2 => 16 | 3 => 8 | 4 => 8 | 5 => 6 | 6 => 6 | 7 => 4 | 8 => 8 | 9 => 8 | 10 => 4
  | 11 => 2 | 12 => 2 | 13 => 3 | 14 => 4 | 15 => 8 | 25 => 8 | 26 => 4 | 27 => 2 | _ => 8

/-- Mantissa bits m of a floating-point format (Table 3.2). -/
def fmtMant (c : Nat) : Nat :=
  match c with
  | 0 => 23 | 1 => 10 | 2 => 7 | 3 => 3 | 4 => 2 | 5 => 3 | 6 => 2 | _ => 1

/-- Exponent bias of a floating-point format (Table 3.2). -/
def fmtBias (c : Nat) : Nat :=
  match c with
  | 0 => 127 | 1 => 15 | 2 => 127 | 3 => 7 | 4 => 15 | 5 => 1 | 6 => 3 | _ => 1

/-- The formats with an infinity code: f32, f16, bf16, e5m2. -/
def fmtHasInf (c : Nat) : Bool := c == 0 || c == 1 || c == 2 || c == 4

/-- The formats with a NaN code. -/
def fmtHasNan (c : Nat) : Bool := c < 5

/-- Code of the largest finite value (Table 3.2). -/
def fmtMaxCode (c : Nat) : Nat :=
  match c with
  | 0 => 0x7F7FFFFF | 1 => 0x7BFF | 2 => 0x7F7F | 3 => 0x7E | 4 => 0x7B | 5 => 0x1F | 6 => 0x1F | _ => 0x7

/-- Canonical NaN (Table 3.2). -/
def fmtNan (c : Nat) : Nat :=
  match c with
  | 0 => 0x7FC00000 | 1 => 0x7E00 | 2 => 0x7FC0 | 3 => 0x7F | 4 => 0x7E | _ => 0

/-- Code of +infinity in a format that has one. -/
def fmtInf (c : Nat) : Nat :=
  match c with
  | 0 => 0x7F800000 | 1 => 0x7C00 | 2 => 0x7F80 | 4 => 0x7C | _ => 0

/-- Sign bit of a floating-point code. -/
def fmtSign (c : Nat) (neg : Bool) : Nat := if neg then 2 ^ (fmtWidth c - 1) else 0

/-- The integer formats that are two's complement. -/
def fmtSigned (c : Nat) : Bool := c == 8 || c == 9 || c == 10 || c == 11

/-- Exponent of the step of an integer format (Table 3.3). -/
def fmtStep (c : Nat) : Int := if c == 8 then -6 else 0

/-- Greatest magnitude of each sign of an integer format, in steps (Table 3.3). -/
def fmtLimit (c : Nat) (neg : Bool) : Nat :=
  let w := fmtWidth c
  if fmtSigned c then (if neg then 2 ^ (w - 1) else 2 ^ (w - 1) - 1) else (if neg then 0 else 2 ^ w - 1)

/-- The value of a castable code (R76, R77, R78). -/
def valueOf (c code : Nat) : Val :=
  if fmtIsFloat c then
    let w := fmtWidth c
    let m := fmtMant c
    let neg := bitAt code (w - 1)
    let e := bits code m (w - 1 - m)
    let f := bits code 0 m
    let ones := 2 ^ (w - 1 - m) - 1
    if fmtHasInf c && e == ones then (if f == 0 then .inf neg else .nan)
    else if c == 3 && e == 15 && f == 7 then .nan
    else if e == 0 then .fin neg f (1 - (fmtBias c : Int) - m)
    else .fin neg (2 ^ m + f) ((e : Int) - fmtBias c - m)
  else
    let w := fmtWidth c
    let v := if fmtSigned c then sext w code else (code : Int)
    .fin (decide (v < 0)) v.natAbs (fmtStep c)

/-- One step of the LFSR of R82. -/
def lfsrStep (s : Nat) : Nat :=
  let b := ((s >>> 31) ^^^ (s >>> 21) ^^^ (s >>> 1) ^^^ s) % 2
  (s <<< 1) % 2 ^ 32 + b

/-- n steps of the LFSR. -/
def lfsrSteps (s : Nat) : Nat → Nat
  | 0 => s
  | n + 1 => lfsrSteps (lfsrStep s) n

/-- r(n) of R82: the random value of destination element n. -/
def srRandom (seed n : Nat) : Nat := lfsrSteps (if seed = 0 then 1 else seed) (32 * (n + 1))

/-- A rounding mode with what it needs: rnd of Table 3.4, ovf_inf, and r(n). -/
structure Round where
  rnd : Nat
  ovfInf : Bool := false
  r : Nat := 0
  deriving DecidableEq, Repr

/-- Rounds the exact quotient n / d of a magnitude to an integer (R81). -/
def roundQ (m : Round) (n d : Nat) : Nat :=
  let q := n / d
  let rem := n % d
  if m.rnd = 0 then (if 2 * rem > d || (2 * rem == d && q % 2 == 1) then q + 1 else q)
  else if m.rnd = 1 then q
  else if (rem * 2 ^ 32) / d + m.r ≥ 2 ^ 32 then q + 1 else q

/-- floor(log2(n / d)) for n, d > 0. -/
def floorLog2 (n d : Nat) : Int :=
  let k : Int := (Nat.log2 n : Int) - Nat.log2 d
  if k ≥ 0 then (if n ≥ d * 2 ^ k.toNat then k else k - 1)
  else (if n * 2 ^ (-k).toNat ≥ d then k else k - 1)

/-- Numerator and denominator of (n / d) × 2^e. -/
def ratio (n d : Nat) (e : Int) : Nat × Nat :=
  if e ≥ 0 then (n * 2 ^ e.toNat, d) else (n, d * 2 ^ (-e).toNat)

/-- Whether (n / d) × 2^e exceeds (n' / d') × 2^e'. -/
def ratioGt (n d : Nat) (e : Int) (n' d' : Nat) (e' : Int) : Bool :=
  let a := ratio n d (e - e')
  decide (a.1 * d' > n' * a.2)

/-- A converted element: its code and the events of "Infinities, NaNs and events". -/
structure Conv where
  code : Nat
  clip : Bool := false
  nonfin : Bool := false
  gen : Bool := false
  deriving DecidableEq, Repr

/-- convert() of R84 on the magnitude (n / d) × 2^e with a sign. -/
def convertFin (t : Nat) (m : Round) (neg : Bool) (n d : Nat) (e : Int) : Conv :=
  if n = 0 then { code := if fmtIsFloat t then fmtSign t neg else 0 }
  else if fmtIsFloat t then
    let mm : Int := fmtMant t
    let emin : Int := 1 - (fmtBias t : Int)
    let l := max (floorLog2 n d + e) emin - mm
    let q := ratio n d (e - l)
    let y := roundQ m q.1 q.2
    let code := ((l - (emin - mm)).toNat <<< fmtMant t) + y
    let clip := match valueOf t (fmtMaxCode t) with
      | .fin _ mx ex => ratioGt n d e mx 1 ex
      | _ => false
    let code := if code > fmtMaxCode t then
        (if m.ovfInf && fmtHasInf t && m.rnd != 1 then fmtInf t else fmtMaxCode t) else code
    { code := fmtSign t neg + code, clip }
  else
    let q := ratio n d (e - fmtStep t)
    let lim := fmtLimit t neg
    let y := min (roundQ m q.1 q.2) lim
    { code := unsext (fmtWidth t) (if neg then -(y : Int) else y), clip := decide (q.1 > lim * q.2) }

/-- Conversion of a NaN or an infinity (R88, Table 3.5). -/
def convertSpecial (t : Nat) (v : Val) : Conv :=
  match v with
  | .nan => if fmtHasNan t then { code := fmtNan t } else { code := 0, nonfin := true, gen := true }
  | .inf neg =>
    if fmtHasInf t then { code := fmtSign t neg + fmtInf t }
    else if fmtIsFloat t then { code := fmtSign t neg + fmtMaxCode t, clip := true, nonfin := true }
    else
      { code := unsext (fmtWidth t) (if neg then -(fmtLimit t true : Int) else fmtLimit t false)
        clip := true, nonfin := true }
  | .fin .. => { code := 0 }

/-- Any value into a castable target (R84, R88). -/
def convert (t : Nat) (m : Round) (v : Val) : Conv :=
  match v with
  | .fin neg n e => convertFin t m neg n 1 e
  | v => convertSpecial t v

/-- The sign of a value. -/
def valNeg : Val → Bool
  | .nan => false
  | .inf n => n
  | .fin n _ _ => n

/-- Whether a value is zero. -/
def valIsZero : Val → Bool
  | .fin _ m _ => m == 0
  | _ => false

/-- Whether a value is finite. -/
def valFinite : Val → Bool
  | .fin .. => true
  | _ => false

/-- Whether a value is a NaN. -/
def valIsNan : Val → Bool
  | .nan => true
  | _ => false

/-- Exact product; NaN when a factor is NaN or for 0 × infinity. -/
def valMul (a b : Val) : Val :=
  match a, b with
  | .fin s m e, .fin s' m' e' => .fin (s != s') (m * m') (e + e')
  | .nan, _ => .nan
  | _, .nan => .nan
  | .inf s, b => if valIsZero b then .nan else .inf (s != valNeg b)
  | a, .inf s => if valIsZero a then .nan else .inf (s != valNeg a)

/-- A finite value as a signed integer at exponent e, when e is no more than its own. -/
def valInt (v : Val) (e : Int) : Int :=
  match v with
  | .fin s m x => let k : Int := (m * 2 ^ (x - e).toNat : Nat); if s then -k else k
  | _ => 0

/-- Exponent of a finite value. -/
def valExp : Val → Int
  | .fin _ _ e => e
  | _ => 0

/-- Exact sum of two finite values; the sum of zeros keeps a minus sign only when both are −0. -/
def valAddFin (a b : Val) : Val :=
  let e := min (valExp a) (valExp b)
  let s := valInt a e + valInt b e
  if s = 0 then .fin (valIsZero a && valIsZero b && valNeg a && valNeg b) 0 e
  else .fin (decide (s < 0)) s.natAbs e

/-- Addition with the special cases of R141 (and of IEEE 754): NaN, opposing infinities, an infinity. -/
def valAdd (a b : Val) : Val :=
  match a, b with
  | .nan, _ => .nan
  | _, .nan => .nan
  | .inf s, .inf s' => if s = s' then .inf s else .nan
  | .inf s, _ => .inf s
  | _, .inf s => .inf s
  | a, b => valAddFin a b

/-- rne(x, 2^g) × 2^−g as an integer (R148): a finite value rounded to nearest even at exponent g. -/
def rneAt (v : Val) (g : Int) : Int :=
  match v with
  | .fin s m e =>
    let q := ratio m 1 (e - g)
    let y : Int := roundQ { rnd := 0 } q.1 q.2
    if s then -y else y
  | _ => 0

end Sys2Proof.Machine
end

