-- ==== Sys2Proof/Machine/Shape.lean ====
section
/-!
DEFINITION. Shape.lean: the address walk of 02: coordinates, padding windows, nesting, merging, requests, and the two
directions between memory bytes and elements. Rows are runs: row r of a side is its r-th run in that side's nesting order.
-/
namespace Sys2Proof.Machine

/-- An element on its way: its code, whether it is a pad element, whether it arrived poisoned. -/
structure Elem where
  code : Nat
  pad : Bool := false
  psn : Bool := false
  deriving DecidableEq, Repr

/-- Bytes of one row: bytes lo to hi − 1, its first bit address, its first element; `glue` when it continues the row before
(R66, R138). -/
structure RowSpan where
  row : Nat
  lo : Nat
  hi : Nat
  bit : Nat
  e0 : Nat
  glue : Bool
  deriving DecidableEq, Repr

/-- A merged run: the row it begins with, bytes lo to hi − 1, its first bit address and element number. -/
structure RunSpan where
  grp : Nat
  lo : Nat
  hi : Nat
  bit : Nat
  elem : Nat
  deriving DecidableEq, Repr

/-- Rows of a shape: cnt1 × cnt2 × cnt3. -/
def Shape.rows (s : Shape) : Nat := s.cnt1 * s.cnt2 * s.cnt3

/-- The element total of a shape (R54). -/
def Shape.total (s : Shape) : Nat := s.run * s.rows

/-- out(k, ext) of R56. -/
def outOf (k : Int) (ext : Nat) : Bool := ext != 0 && (decide (k < 0) || decide (k ≥ ext))

/-- Loop numbers of a walk order, outermost first (Table 2.2); the reserved orders read as 0b000. -/
def nesting (wo : Nat) : Nat × Nat × Nat :=
  match wo with
  | 1 => (3, 1, 2) | 2 => (2, 3, 1) | 3 => (2, 1, 3) | 4 => (1, 3, 2) | 5 => (1, 2, 3) | _ => (3, 2, 1)

/-- The count of loop l. -/
def Shape.cnt (s : Shape) (l : Nat) : Nat := if l = 1 then s.cnt1 else if l = 2 then s.cnt2 else s.cnt3

/-- The step of loop l. -/
def Shape.step (s : Shape) (l : Nat) : Int := if l = 1 then s.step1 else if l = 2 then s.step2 else s.step3

/-- Walk indices (i1, i2, i3) of row r under a walk order (R55, R56). -/
def rowIdx (s : Shape) (wo r : Nat) : Nat × Nat × Nat :=
  let (la, lb, lc) := nesting wo
  let ic := r % s.cnt lc
  let ib := (r / s.cnt lc) % s.cnt lb
  let ia := r / (s.cnt lc * s.cnt lb)
  let pick (l : Nat) : Nat := if l = la then ia else if l = lb then ib else ic
  (pick 1, pick 2, pick 3)

/-- Byte offset of loop coordinates from the base (R47). -/
def loopOffset (s : Shape) (k1 k2 k3 : Int) : Int := k1 * s.step1 + k2 * s.step2 + k3 * s.step3

/-- Byte address of destination row r (R47, R59). -/
def destRowAddr (d : Shape) (wo r : Nat) : Int :=
  let (i1, i2, i3) := rowIdx d wo r
  d.base + loopOffset d i1 i2 i3

/-- Rows that merge into one run: loops as (count, step, may merge), innermost first; `len` the merged bytes so far (R66). -/
def mergeRows (len acc : Nat) : List (Nat × Int × Bool) → Nat
  | [] => acc
  | (c, st, ok) :: r =>
    if c = 1 then mergeRows len acc r
    else if ok && len != 0 && st == (len : Int) then mergeRows (len * c) (acc * c) r
    else acc

/-- The bytes of a run of w-bit elements when they are whole, else 0. -/
def wholeBytes (w run : Nat) : Nat := if (w * run) % 8 = 0 then w * run / 8 else 0

/-- Rows per merged run on the destination side. -/
def destMerge (d : Shape) (wo w : Nat) (ct : Bool) : Nat :=
  let (la, lb, lc) := nesting wo
  mergeRows (wholeBytes w d.run) 1
    [(d.cnt lc, d.step lc, !ct), (d.cnt lb, d.step lb, !ct), (d.cnt la, d.step la, !ct)]

/-- An axis whose window no coordinate leaves (R66). -/
def axisFree (start : Int) (cnt ext : Nat) : Bool := ext == 0 || (decide (0 ≤ start) && decide (start + cnt ≤ ext))

/-- Rows per merged run on the source side. -/
def srcMerge (s : Shape) (w : Nat) (ct : Bool) : Nat :=
  let f0 := axisFree s.start0 s.run s.ext0 && !ct
  let f1 := f0 && axisFree s.start1 s.cnt1 s.ext1
  let f2 := f1 && axisFree s.start2 s.cnt2 s.ext2
  let f3 := f2 && axisFree s.start3 s.cnt3 s.ext3
  mergeRows (wholeBytes w s.run) 1 [(s.cnt1, s.step1, f1), (s.cnt2, s.step2, f2), (s.cnt3, s.step3, f3)]

/-- Whether a source row lies in a pad region by its loop coordinates (R48). -/
def rowOut (s : Shape) (k1 k2 k3 : Int) : Bool := outOf k1 s.ext1 || outOf k2 s.ext2 || outOf k3 s.ext3

/-- First bit address of a source row (its element with index 0, R47). -/
def srcRowBit (s : Shape) (w : Nat) (k1 k2 k3 : Int) : Int := 8 * (s.base + loopOffset s k1 k2 k3) + w * s.start0

/-- The bytes read for a source row (R58), none when every element is a pad element (R68). -/
def srcRowSpan (s : Shape) (w row : Nat) (k1 k2 k3 : Int) (glue : Bool) : Option RowSpan :=
  if rowOut s k1 k2 k3 then none
  else
    let e0 : Int := if s.ext0 = 0 then 0 else max 0 (-s.start0)
    let e1 : Int := if s.ext0 = 0 then s.run else min s.run ((s.ext0 : Int) - s.start0)
    if e1 ≤ e0 then none
    else
      let b := srcRowBit s w k1 k2 k3
      let b0 := (b + w * e0).toNat
      let b1 := (b + w * e1).toNat
      some { row, lo := b0 / 8, hi := (b1 + 7) / 8, bit := b0, e0 := e0.toNat, glue }

/-- Joins glued rows into merged runs, rows in rising order. -/
def joinSpans (run : Nat) : List RowSpan → List RunSpan → List RunSpan
  | [], acc => acc.reverse
  | x :: r, [] => joinSpans run r [{ grp := x.row, lo := x.lo, hi := x.hi, bit := x.bit, elem := x.row * run + x.e0 }]
  | x :: r, g :: acc =>
    if x.glue then joinSpans run r ({ g with hi := x.hi } :: acc)
    else joinSpans run r
      ({ grp := x.row, lo := x.lo, hi := x.hi, bit := x.bit, elem := x.row * run + x.e0 } :: g :: acc)

/-- Source coordinates of row r under its canonical walk (R46, R56). -/
def srcRowK (s : Shape) (r : Nat) : Int × Int × Int :=
  let (i1, i2, i3) := rowIdx s 0 r
  (s.start1 + i1, s.start2 + i2, s.start3 + i3)

/-- Merged runs that a plain source side reads, each part's rows merged by themselves; `grp` names a row's run. -/
def srcRuns (s : Shape) (w : Nat) (grp : Nat → Nat) : List RunSpan :=
  joinSpans s.run ((List.range s.rows).filterMap fun r =>
    let (k1, k2, k3) := srcRowK s r
    srcRowSpan s w r k1 k2 k3 (grp r != r)) []

/-- Cuts a merged run into requests of 256 bytes (R67): offset and length of each. -/
def cutRun (len : Nat) : List (Nat × Nat) :=
  (List.range (ceilDiv len 256)).map fun j => (256 * j, min 256 (len - 256 * j))

/-- First element number, relative to the run's, of the request at byte offset `off` (R251). -/
def runElem (g : RunSpan) (w off : Nat) : Nat := (8 * (g.lo + off) - g.bit) / w

/-- Read requests of merged runs on a side. Parts and order numbers are given later. -/
def runReads (side : Side) (w : Nat) (gs : List RunSpan) : List RdReq :=
  gs.flatMap fun g => (cutRun (g.hi - g.lo)).map fun (off, len) =>
    { side, grp := g.grp, ord := g.elem + runElem g w off, elem := g.elem + runElem g w off, part := 0
      va := g.lo + off, len }

/-- The byte landed for address va in a run, with its poison (R72: by 64-byte block). -/
def landedByte (land : List Landed) (side : Side) (grp va : Nat) : Byte × Bool :=
  match land.find? (fun l => l.side == side && l.grp == grp && decide (l.va ≤ va) && decide (va < l.va + l.data.length)) with
  | some l => (l.data.getD (va - l.va) 0#8, l.psn.getLsbD (va / 64 - l.va / 64))
  | none => (0#8, false)

/-- n bits landed at bit address b in a run, with the poison of the bytes that hold them. -/
def landedBits (land : List Landed) (side : Side) (grp b n : Nat) : Nat × Bool :=
  let k := (b + n + 7) / 8 - b / 8
  let bs := (List.range k).map fun j => landedByte land side grp (b / 8 + j)
  (bits (leNat (bs.map Prod.fst)) (b % 8) n, bs.any Prod.snd)

/-- A source element by row coordinates and run index e (R56). -/
def srcElem (s : Shape) (w pad : Nat) (land : List Landed) (grp : Nat) (k1 k2 k3 : Int) (e : Nat) : Elem :=
  if rowOut s k1 k2 k3 || outOf (s.start0 + e) s.ext0 then { code := pad % 2 ^ w, pad := true }
  else
    let v := landedBits land .source grp (srcRowBit s w k1 k2 k3 + w * e).toNat w
    { code := v.1, psn := v.2 }

/-- Element n of a plain source's element stream (R56). -/
def streamElem (s : Shape) (w pad : Nat) (land : List Landed) (grp : Nat → Nat) (n : Nat) : Elem :=
  let r := n / s.run
  let (k1, k2, k3) := srcRowK s r
  srcElem s w pad land (grp r) k1 k2 k3 (n % s.run)

/-- The stream number that the destination walk's element n takes under a corner turn (R60). -/
def turnIdx (s d : Shape) (n : Nat) : Nat :=
  let plane := d.run * d.cnt1
  let i := n % plane
  n / plane * plane + (i % d.run) * s.run + i / d.run

/-- The source's elements in the order in which the destination walk places them (R56, R60). -/
def sourceStream (s d : Shape) (w pad : Nat) (ct : Bool) (grp : Nat → Nat) (land : List Landed) : List Elem :=
  (List.range s.total).map fun n => streamElem s w pad land grp (if ct then turnIdx s d n else n)

/-- Codes of width w packed low first (R7). -/
def packCodes (w : Nat) (cs : List Nat) : Nat := cs.foldr (fun c acc => c % 2 ^ w + acc * 2 ^ w) 0

/-- The bytes of a row of elements with their poison, its last byte filled from bit 0 and then with zeros (R59, R252). -/
def rowBytes (w : Nat) (es : List Elem) : List (Byte × Bool) :=
  let n := (w * es.length + 7) / 8
  let data := leBytes (packCodes w (es.map (·.code))) n
  data.zipIdx.map fun (b, j) =>
    (b, ((es.drop (8 * j / w)).take ((8 * j + 7) / w - 8 * j / w + 1)).any (·.psn))

/-- Poison bits of a write at address va: bit j for the block floor(va / 64) + j (R408). -/
def blockPsn (va : Nat) (bs : List (Byte × Bool)) : BitVec 5 :=
  BitVec.ofNat 5 ((List.range 5).foldl (fun acc j =>
    if bs.zipIdx.any (fun (b, i) => b.2 && (va + i) / 64 == va / 64 + j) then acc + 2 ^ j else acc) 0)

/-- Write requests of one merged run of bytes at va; `elem` is its first element (R67). -/
def runWrites (side : Side) (w va elem : Nat) (bs : List (Byte × Bool)) : List WrReq :=
  (cutRun bs.length).map fun (off, len) =>
    let piece := (bs.drop off).take len
    { side, ord := elem + 8 * off / w, elem := elem + 8 * off / w, part := 0, va := va + off
      data := piece.map Prod.fst, psn := blockPsn (va + off) piece }

/-- Rows of a list of elements, `run` elements each, `fuel` rows. -/
def chunk {α : Type} (run : Nat) : Nat → List α → List (List α)
  | 0, _ => []
  | fuel + 1, l => l.take run :: chunk run fuel (l.drop run)

/-- Joins the bytes of glued destination rows: (address, first row, bytes), rows given as (row, address, glue, bytes). -/
def joinRows : List (Nat × Nat × Bool × List (Byte × Bool)) → List (Nat × Nat × List (Byte × Bool)) →
    List (Nat × Nat × List (Byte × Bool))
  | [], acc => acc.reverse
  | (row, a, _, bs) :: r, [] => joinRows r [(a, row, bs)]
  | (row, a, glue, bs) :: r, g :: acc =>
    if glue then joinRows r ((g.1, g.2.1, g.2.2 ++ bs) :: acc) else joinRows r ((a, row, bs) :: g :: acc)

/-- The write requests that place an element stream by the destination walk (R56, R66, R67). -/
def destWrites (d : Shape) (wo w : Nat) (ct : Bool) (es : List Elem) : List WrReq :=
  let m := destMerge d wo w ct
  let rows := (chunk d.run d.rows es).zipIdx.map fun (es, r) =>
    (r, (destRowAddr d wo r).toNat, r % m != 0, rowBytes w es)
  (joinRows rows []).flatMap fun (a, row, bs) => runWrites .dest w a (row * d.run) bs

/-- Number of requests of a destination side, without its data. -/
def destSlots (d : Shape) (wo w : Nat) (ct : Bool) : Nat :=
  let m := destMerge d wo w ct
  (d.rows / m) * ceilDiv (ceilDiv (d.run * w) 8 * m) 256

/-- Number of read requests of a plain source side, the whole of it in one part. -/
def srcSlots (s : Shape) (w : Nat) (ct : Bool) : Nat :=
  let m := srcMerge s w ct
  (runReads .source w (srcRuns s w fun r => r / m * m)).length

end Sys2Proof.Machine
end

