-- ==== Sys2Proof/Machine/Entry.lean ====
section
/-!
DEFINITION. Entry.lean: the 128-byte instruction entry (09): where each field lies. An entry is held as the little-endian
number of its 128 bytes, so byte b bit i of it is bit 8b + i (R320, R321).
-/
namespace Sys2Proof.Machine

/-- n bits of an entry or admin command from bit i of byte b. -/
def fld (e b i n : Nat) : Nat := bits e (8 * b + i) n

/-- The opcodes of Table 9.2. -/
inductive Op where
  | move | fill | cast | pack | unpack | gather | scatter | scatterAdd | contract | linkput | linkreduce | mcast
  | fence | signal | await | tickwait | link | nop
  deriving DecidableEq, Repr

/-- R322: the opcode byte. -/
def opOf (e : Nat) : Option Op :=
  match fld e 2 0 8 with
  | 0x01 => some .move | 0x02 => some .fill | 0x03 => some .cast | 0x04 => some .pack | 0x05 => some .unpack
  | 0x06 => some .gather | 0x07 => some .scatter | 0x08 => some .scatterAdd | 0x09 => some .contract
  | 0x10 => some .linkput | 0x11 => some .linkreduce | 0x12 => some .mcast
  | 0x20 => some .fence | 0x21 => some .signal | 0x22 => some .await | 0x23 => some .tickwait | 0x24 => some .link
  | 0x25 => some .nop | _ => none

/-- Whether an opcode is program control (Table 9.2). -/
def opIsControl (o : Op) : Bool :=
  o == .fence || o == .signal || o == .await || o == .tickwait || o == .link || o == .nop

/-- The mode word's fields (Table 9.3). -/
def eCt (e : Nat) : Bool := bitAt e 32
def eOvfInf (e : Nat) : Bool := bitAt e 33
def eWin (e : Nat) : Bool := bitAt e 34
def eRnd (e : Nat) : Nat := bits e 35 2
def eScaleRule (e : Nat) : Nat := bits e 37 2
def eGrp (e : Nat) : Nat := bits e 39 2
def eScFmt (e : Nat) : Nat := bits e 41 1
def eSrcFmt (e : Nat) : Nat := bits e 42 5
def eDstFmt (e : Nat) : Nat := bits e 47 5
def eWalk (e : Nat) : Nat := bits e 52 3

/-- The source shape (Table 9.4), starts and extents as stored. -/
def eSrcFull (e : Nat) : Shape :=
  { base := fld e 8 0 64, run := fld e 16 0 20, cnt1 := fld e 16 20 20, cnt2 := fld e 16 40 20, cnt3 := fld e 16 60 20
    step1 := sext 40 (fld e 26 0 40), step2 := sext 40 (fld e 31 0 40), step3 := sext 40 (fld e 36 0 40)
    start0 := sext 20 (fld e 41 0 20), start1 := sext 20 (fld e 41 20 20)
    start2 := sext 20 (fld e 41 40 20), start3 := sext 20 (fld e 41 60 20)
    ext0 := fld e 51 0 20, ext1 := fld e 51 20 20, ext2 := fld e 51 40 20, ext3 := fld e 51 60 20 }

/-- The source shape an opcode has: a CONTRACT's has no starts and extents (R333), a FILL's only run and counts (R338). -/
def eSrc (e : Nat) : Shape :=
  let s := eSrcFull e
  match opOf e with
  | some .contract =>
    { base := s.base, run := s.run, cnt1 := s.cnt1, cnt2 := s.cnt2, cnt3 := s.cnt3
      step1 := s.step1, step2 := s.step2, step3 := s.step3 }
  | some .fill =>
    { base := 0, run := s.run, cnt1 := s.cnt1, cnt2 := s.cnt2, cnt3 := s.cnt3, step1 := 0, step2 := 0, step3 := 0 }
  | _ => s

/-- The destination shape (Table 9.4). -/
def eDst (e : Nat) : Shape :=
  { base := fld e 61 0 64, run := fld e 69 0 20, cnt1 := fld e 69 20 20, cnt2 := fld e 69 40 20, cnt3 := fld e 69 60 20
    step1 := sext 40 (fld e 79 0 40), step2 := sext 40 (fld e 84 0 40), step3 := sext 40 (fld e 89 0 40) }

/-- The transform block (Table 9.5). -/
def ePad (e : Nat) : Nat := fld e 94 0 32
def eSeed (e : Nat) : Nat := fld e 98 0 32
def eScBase (e : Nat) : Nat := fld e 102 0 64
def eWinBase (e : Nat) : Nat := fld e 110 0 64
def eCbSlot (e : Nat) : Nat := fld e 118 0 10

/-- The event word (Table 9.6). -/
def eCtally (e : Nat) : Nat := fld e 120 0 14
def eCen (e : Nat) : Bool := bitAt e (8 * 120 + 14)
def ePtally (e : Nat) : Nat := fld e 120 16 14
def ePeriod (e : Nat) : Nat := fld e 120 32 16
def eClass (e : Nat) : Nat := fld e 120 48 3
def eDeadline (e : Nat) : Nat := fld e 120 51 13

/-- The gleaner fields: of the gleaner block, or of the contract block (Tables 9.7, 9.8). -/
def eIsContract (e : Nat) : Bool := opOf e == some .contract
def eIdxBase (e : Nat) : Nat := if eIsContract e then fld e 41 0 64 else fld e 102 0 64
def eIdxLim (e : Nat) : Nat := if eIsContract e then fld e 49 0 32 else fld e 110 0 32
def eIdxShare (e : Nat) : Bool := if eIsContract e then bitAt e (8 * 94 + 17) else bitAt e (8 * 114)

/-- The contract block (Table 9.8). -/
def eOpndBase (e : Nat) : Nat := fld e 53 0 64
def eAccExpC (e : Nat) : Int := sext 9 (fld e 94 0 9)
def eCform (e : Nat) : Nat := fld e 94 9 2
def eOpndFmt (e : Nat) : Nat := fld e 94 11 5
def eWide (e : Nat) : Bool := bitAt e (8 * 94 + 16)

/-- The link block (Table 9.7). -/
def eRchip (e : Nat) : Nat := fld e 102 0 16
def eRtally (e : Nat) : Option Nat := if bitAt e (8 * 104 + 14) then some (fld e 104 0 14) else none
def eLport (e : Nat) : Nat := fld e 106 0 7
def eMcList (e : Nat) : Nat := fld e 102 0 64
def eMcCnt (e : Nat) : Nat := fld e 110 0 5
def eRid (e : Nat) : Nat := fld e 104 0 16
def ePcnt (e : Nat) : Nat := fld e 107 0 14
def eRedE (e : Nat) : Nat := fld e 109 0 17
def eAccExpL (e : Nat) : Int := sext 9 (fld e 112 0 9)
def eHome (e : Nat) : Bool := bitAt e (8 * 114)
def eRawIn (e : Nat) : Bool := bitAt e (8 * 114 + 1)
def eRawOut (e : Nat) : Bool := bitAt e (8 * 114 + 2)
def eHomeSrc (e : Nat) : Bool := bitAt e (8 * 114 + 3)

/-- The control block (Table 9.12). -/
def eFenceKind (e : Nat) : Nat := fld e 8 0 2
def eSigTally (e : Nat) : Nat := fld e 8 0 14
def eSigCount (e : Nat) : Nat := fld e 10 0 16
def eSigKind (e : Nat) : Nat := fld e 12 0 2
def eEpoch (e : Nat) : Nat := fld e 10 0 16
def eAligned (e : Nat) : Bool := bitAt e (8 * 8)
def eTicks (e : Nat) : Nat := fld e 12 0 32
def ePhase (e : Nat) : Nat := fld e 16 0 32
def eTarget (e : Nat) : Nat := fld e 8 0 64

/-- Elements of a scale unit or sheaf for grp ≠ 0b00 (Table 4.2). -/
def grpLen (g : Nat) : Nat := 16 * 2 ^ g

/-- Element width of the source side: 192 bits for a raw LINKREDUCE (R334). -/
def eSrcW (e : Nat) : Nat := if opOf e == some .linkreduce && eRawIn e then 192 else fmtWidth (eSrcFmt e)

/-- Element width of the destination side. -/
def eDstW (e : Nat) : Nat := if opOf e == some .linkreduce && eRawOut e then 192 else fmtWidth (eDstFmt e)

/-- Whether an entry names a crib slot (R327). -/
def eNamesSlot (e : Nat) : Bool :=
  match opOf e with
  | some .pack | some .unpack | some .contract => fmtIsCb (eSrcFmt e) || fmtIsCb (eDstFmt e)
  | _ => false

/-- Used codebook entries N of a codebook kind. -/
def cbEntries (fmt : Nat) : Nat := 2 ^ fmtWidth fmt

/-- Whether a LINKREDUCE has a source shape: a send, or a home with home_src = 1 (R334). -/
def eRedHasSrc (e : Nat) : Bool := !eHome e || eHomeSrc e

end Sys2Proof.Machine
end

