-- ==== Sys2Proof/Machine/Checks.lean ====
section
/-!
DEFINITION. Checks.lean: the fetch checks of an entry (R64, R129, R159, R222, R340): every condition that makes it
malformed, as a cause of Table 8.3 with the lowest entry byte it names (R341), and the choice among several (R293).
-/
namespace Sys2Proof.Machine

/-- A failing condition: (cause, lowest byte named), or nothing. -/
def chk (b : Bool) (cause off : Nat) : List (Nat × Nat) := if b then [(cause, off)] else []

/-- The bits of a field list, given as (first bit, width), as a mask. -/
def fieldMask (l : List (Nat × Nat)) : Nat := l.foldl (fun m f => m ||| ((2 ^ f.2 - 1) <<< f.1)) 0

/-- Fields of the source shape block: base and steps, run and counts, starts and extents. -/
def fSrcBase : List (Nat × Nat) := [(64, 64), (208, 120)]
def fSrcRun : List (Nat × Nat) := [(128, 80)]
def fSrcWin : List (Nat × Nat) := [(328, 160)]
/-- The destination shape block. -/
def fDst : List (Nat × Nat) := [(488, 264)]
/-- Mode-word groups: ovf_inf, win and rnd; ct; the scale fields; src_fmt; dst_fmt and walk_order. -/
def fMode : List (Nat × Nat) := [(33, 4)]
def fCt : List (Nat × Nat) := [(32, 1)]
def fScale : List (Nat × Nat) := [(37, 5)]
def fSrcFmt : List (Nat × Nat) := [(42, 5)]
def fDstFmt : List (Nat × Nat) := [(47, 5)]
def fWalk : List (Nat × Nat) := [(52, 3)]
def fPad : List (Nat × Nat) := [(752, 32)]
def fSeed : List (Nat × Nat) := [(784, 32)]
/-- sc_base, win_base and cb_slot. -/
def fSide : List (Nat × Nat) := [(816, 128), (944, 10)]
/-- ctally, c_en, class and deadline; ptally and period. -/
def fEvent : List (Nat × Nat) := [(960, 15), (1008, 16)]
def fProg : List (Nat × Nat) := [(976, 14), (992, 16)]
/-- The gleaner block. -/
def fGlean : List (Nat × Nat) := [(816, 96), (912, 1)]

/-- The fields a data opcode has (Table 9.9). -/
def dataFields (e : Nat) (o : Op) : List (Nat × Nat) :=
  let plain := fSrcFmt ++ fDstFmt ++ fWalk ++ fSrcBase ++ fSrcRun ++ fSrcWin ++ fDst ++ fPad
  fMode ++ fEvent ++
  match o with
  | .move => fCt ++ plain ++ fProg
  | .fill => fSrcFmt ++ fDstFmt ++ fWalk ++ fSrcRun ++ fDst ++ fPad ++ fProg
  | .cast => fCt ++ plain ++ fSeed ++ fProg
  | .pack | .unpack => fCt ++ fScale ++ plain ++ fSeed ++ fSide ++ fProg
  | .gather | .scatter => plain ++ fGlean ++ fProg
  | .scatterAdd => plain ++ fSeed ++ fGlean
  | .contract =>
    fScale ++ fSrcFmt ++ fDstFmt ++ fWalk ++ fSrcBase ++ fSrcRun ++ [(328, 160)] ++ fDst ++ [(752, 18)] ++ fSide
  | .linkput => plain ++ [(816, 16), (832, 15), (848, 7)]
  | .mcast => plain ++ [(816, 64), (880, 5)]
  | _ =>
    (if eRedHasSrc e then
      fSrcBase ++ fSrcRun ++ fSrcWin ++ (if eRawIn e then [] else fSrcFmt ++ fPad) else [])
    ++ (if eHome e then fDst ++ fWalk ++ (if eRawOut e then [] else fDstFmt) else [])
    ++ (if eHome e then [(914, 2)] else [(816, 16), (848, 7)])
    ++ [(832, 16), (856, 14), (872, 17), (896, 9), (912, 2)]

/-- The fields a program-control opcode has (Table 9.12). -/
def controlFields (o : Op) : List (Nat × Nat) :=
  match o with
  | .fence => [(64, 2)]
  | .signal => [(64, 14), (80, 16), (96, 2)]
  | .await => [(64, 14), (80, 16)]
  | .tickwait => [(64, 1), (96, 64)]
  | .link => [(64, 64)]
  | _ => []

/-- R14: reserved bits and absent fields that are not zero. -/
def chkReserved (e : Nat) (o : Op) : List (Nat × Nat) :=
  let m := fieldMask ((0, 32) :: if opIsControl o then controlFields o else dataFields e o)
  let bad := e &&& ((2 ^ 1024 - 1) ^^^ m)
  chk (bad != 0) 3 (lowBit bad 1024 / 8)

/-- Conditions on a count of zero and on the element total of one side (Table 2.4); `b` is the byte of run. -/
def chkCounts (s : Shape) (b : Nat) : List (Nat × Nat) :=
  chk (s.run == 0) 3 b ++ chk (s.cnt1 == 0) 3 (b + 2) ++ chk (s.cnt2 == 0) 3 (b + 5) ++ chk (s.cnt3 == 0) 3 (b + 7)
  ++ chk (decide (s.total > 2 ^ 48 - 1)) 3 b

/-- R53. -/
def chkSteps (d : Shape) : List (Nat × Nat) :=
  chk (d.step1 == 0 && decide (d.cnt1 > 1)) 3 71 ++ chk (d.step2 == 0 && decide (d.cnt2 > 1)) 3 74
  ++ chk (d.step3 == 0 && decide (d.cnt3 > 1)) 3 76

/-- Non-pad coordinates of an axis, least and greatest (R65). -/
def axisRange (start : Int) (cnt ext : Nat) : Int × Int :=
  if ext = 0 then (start, start + cnt - 1) else (max start 0, min (start + cnt - 1) ((ext : Int) - 1))

/-- R65: whether every non-pad element of a side lies within bit addresses 0 to 2^67 − 1; `r1` is axis 1's range. -/
def addrOk (s : Shape) (w : Nat) (r1 : Int × Int) : Bool :=
  let r0 := axisRange s.start0 s.run s.ext0
  let r2 := axisRange s.start2 s.cnt2 s.ext2
  let r3 := axisRange s.start3 s.cnt3 s.ext3
  let lo (r : Int × Int) (st : Int) : Int := min (r.1 * st) (r.2 * st)
  let hi (r : Int × Int) (st : Int) : Int := max (r.1 * st) (r.2 * st)
  if decide (r0.1 > r0.2) || decide (r1.1 > r1.2) || decide (r2.1 > r2.2) || decide (r3.1 > r3.2) then true
  else
    decide (0 ≤ 8 * (s.base : Int) + w * r0.1 + 8 * (lo r1 s.step1 + lo r2 s.step2 + lo r3 s.step3))
    && decide (8 * (s.base : Int) + w * r0.2 + w - 1 + 8 * (hi r1 s.step1 + hi r2 s.step2 + hi r3 s.step3) < 2 ^ 67)

/-- Axis 1's own range. -/
def ownR1 (s : Shape) : Int × Int := axisRange s.start1 s.cnt1 s.ext1

/-- The range of an indexed axis 1 (R136). -/
def idxR1 (e : Nat) : Int × Int := (0, (eIdxLim e : Int) - 1)

/-- A reserved bit of pad_value at width w (R50): the byte of the lowest such bit. -/
def chkPad (e w : Nat) : List (Nat × Nat) :=
  let hi := ePad e >>> w
  chk (hi != 0) 3 (94 + (w + lowBit hi 32) / 8)

/-- The lowest byte that the address check names: of the format, which gives the width, or of the base when the side is raw. -/
def addrByte (w base : Nat) : Nat := if w = 192 then base else 5

/-- Conditions shared by every side pair with a destination shape. -/
def chkDest (e w : Nat) (r1 : Int × Int) : List (Nat × Nat) :=
  chkCounts (eDst e) 69 ++ chkSteps (eDst e) ++ chk (decide (eWalk e > 5)) 3 6 ++ chk (!addrOk (eDst e) w r1) 3 (addrByte w 61)

/-- Conditions of a source shape. -/
def chkSource (e w : Nat) (r1 : Int × Int) : List (Nat × Nat) :=
  chkCounts (eSrc e) 16 ++ chk (!addrOk (eSrc e) w r1) 3 (addrByte w 8)

/-- R54. -/
def chkTotals (e : Nat) : List (Nat × Nat) := chk ((eSrc e).total != (eDst e).total) 4 16

/-- R61: the conditions of a corner turn. -/
def chkTurn (e : Nat) : List (Nat × Nat) :=
  if eCt e then
    let w := fmtWidth (eSrcFmt e)
    let s := eSrc e
    let d := eDst e
    chk (!(w == 2 || w == 4 || w == 8 || w == 16 || w == 32)) 3 4
    ++ chk (!(eWalk e == 0 || eWalk e == 2)) 3 4
    ++ chk (d.run != s.cnt1) 4 4 ++ chk (d.cnt1 != s.run) 4 4 ++ chk (d.cnt2 * d.cnt3 != s.cnt2 * s.cnt3) 4 4
  else []

/-- Format codes valid on both sides (R73). -/
def chkFmts (e : Nat) : List (Nat × Nat) := chk (!fmtOk (eSrcFmt e) || !fmtOk (eDstFmt e)) 3 5

/-- R79, in every data opcode (R335). -/
def chkRnd (e : Nat) : List (Nat × Nat) := chk (eRnd e == 3) 3 4

/-- The plain pair of sides of MOVE, CAST, PACK, UNPACK, LINKPUT and MCAST. -/
def chkPlain (e : Nat) : List (Nat × Nat) :=
  chkFmts e ++ chkSource e (fmtWidth (eSrcFmt e)) (ownR1 (eSrc e)) ++ chkDest e (fmtWidth (eDstFmt e)) (ownR1 (eDst e))
  ++ chkPad e (fmtWidth (eSrcFmt e)) ++ chkTotals e ++ chkTurn e

/-- A narrow format (R95). -/
def fmtNarrow (c : Nat) : Bool := fmtIsCb c || (fmtCastable c && decide (fmtWidth c ≤ 8))

/-- Bytes of one scale (Table 4.2). -/
def scBytes (e : Nat) : Nat := if eScFmt e = 0 then 1 else 2

/-- Elements per scale unit (R107): the run of the row side, or G. -/
def unitLen (e run : Nat) : Nat := if eGrp e = 0 then run else grpLen (eGrp e)

/-- Scale conditions of PACK and UNPACK (Table 4.5); `run` is the row side's. -/
def chkScale (e run total : Nat) : List (Nat × Nat) :=
  chk (eScaleRule e == 3) 3 4
  ++ chk (eGrp e != 0 && run % grpLen (eGrp e) != 0) 3 4
  ++ (if eScaleRule e == 1 || eScaleRule e == 2 then
      chk (eScFmt e == 1 && eScBase e % 2 == 1) 3 5
      ++ chk (decide (eScBase e + total / max 1 (unitLen e run) * scBytes e > 2 ^ 64)) 3 4 else [])

/-- R123. -/
def chkWin (e : Nat) : List (Nat × Nat) := chk (eWin e && eWinBase e % 32 != 0) 3 4

/-- R159 on the index array (R136); the bytes of idx_base and idx_lim depend on the block, and its span names cnt1 of the indexed side, at
byte `c`. -/
def chkIndex (e : Nat) (s : Shape) (c : Nat) : List (Nat × Nat) :=
  let b := if eIsContract e then 41 else 102
  let n := if eIdxShare e then s.cnt1 else s.rows
  chk (eIdxBase e % 4 != 0) 3 b ++ chk (eIdxLim e == 0) 3 (b + 8) ++ chk (decide (eIdxBase e + 4 * n > 2 ^ 64)) 3 c

/-- CONTRACT (Table 5.9). -/
def chkContract (e : Nat) : List (Nat × Nat) :=
  let s := eSrc e
  let g := if eGrp e = 0 then s.run else grpLen (eGrp e)
  let planes := s.cnt2 * s.cnt3
  let usesOpnd := eCform e == 0 || eCform e == 2
  let nOpnd := if eCform e == 2 then planes * s.run else planes * s.cnt1
  chkFmts e ++ chkSource e (fmtWidth (eSrcFmt e)) (idxR1 e) ++ chkDest e (fmtWidth (eDstFmt e)) (ownR1 (eDst e))
  ++ chkIndex e s 18
  ++ chk (eCform e == 3) 3 95 ++ chk (usesOpnd && !fmtCastable (eOpndFmt e)) 3 95 ++ chk (fmtIsCb (eDstFmt e)) 3 5
  ++ chk (!eWide e && eGrp e == 0) 3 4
  ++ (if eWide e then
      chk (eSrcFmt e != 0) 3 5 ++ chk (usesOpnd && eOpndFmt e != 0) 3 95 ++ chk (eScaleRule e != 0) 3 4
      ++ chk (eGrp e != 0) 3 4 else [])
  ++ chk (eGrp e != 0 && s.run % grpLen (eGrp e) != 0) 3 4 ++ chk (eScaleRule e == 3) 3 4
  ++ chk (eCform e == 2 && decide (s.run * fmtWidth (eOpndFmt e) > 8 * 65536)) 3 16
  ++ chk (usesOpnd && decide (8 * eOpndBase e + fmtWidth (eOpndFmt e) * nOpnd > 2 ^ 67)) 3 (if eCform e == 2 then 16 else 18)
  ++ (if eScaleRule e == 1 || eScaleRule e == 2 then
      chk (eScFmt e == 1 && eScBase e % 2 == 1) 3 5
      ++ chk (decide (eScBase e + planes * eIdxLim e * (s.run / max 1 g) * scBytes e > 2 ^ 64)) 3 4 else [])
  ++ chkWin e
  ++ chk ((eDst e).total != planes * (if eCform e == 2 then s.cnt1 else s.run)) 4 (if eCform e == 2 then 18 else 16)

/-- One MCAST receiver entry (Table 6.9) breaks Table 6.11. -/
def receiverBad (linkPorts : Nat) (r : List Byte) : Bool :=
  let v := leNat r
  let kind := bits v 88 8
  decide (kind > 1) || bits v 112 16 != 0
  || (kind == 1 && decide (bits v 80 8 ≥ linkPorts))
  || (kind == 0 && (bits v 64 16 != 0 || bits v 80 8 != 0 || bits v 96 16 != 0))

/-- MCAST: the list of receivers as read (R197), none when it was read poisoned or with an error. -/
def chkList (linkPorts : Nat) (list : Option (List Byte)) : List (Nat × Nat) :=
  match list with
  | none => []
  | some l => chk ((chunk 16 (l.length / 16) l).any (receiverBad linkPorts)) 3 102

/-- A raw side that is not the dense array of R212. -/
def chkDense (s : Shape) (n b : Nat) : List (Nat × Nat) :=
  chk (s.run != n) 3 b ++ chk (s.cnt1 != 1) 3 (b + 2) ++ chk (s.cnt2 != 1) 3 (b + 5) ++ chk (s.cnt3 != 1) 3 (b + 7)
  ++ chk (s.start0 != 0) 3 41 ++ chk (s.start1 != 0) 3 43 ++ chk (s.start2 != 0) 3 46 ++ chk (s.start3 != 0) 3 48
  ++ chk (s.ext0 != 0) 3 51 ++ chk (s.ext1 != 0) 3 53 ++ chk (s.ext2 != 0) 3 56 ++ chk (s.ext3 != 0) 3 58

/-- LINKREDUCE (Table 6.11, R334, R339). -/
def chkReduce (linkPorts self e : Nat) : List (Nat × Nat) :=
  let n := eRedE e
  let local_ := eRchip e == self
  chk (ePcnt e == 0) 3 107 ++ chk (n == 0 || decide (n > 65536)) 3 109
  ++ (if eRedHasSrc e then
      chkSource e (eSrcW e) (ownR1 (eSrc e)) ++ chk ((eSrc e).total != n) 4 16
      ++ (if eRawIn e then chkDense (eSrc e) n 16
          else chk (!fmtCastable (eSrcFmt e)) 3 5 ++ chkPad e (fmtWidth (eSrcFmt e))) else [])
  ++ (if eHome e then
      chkDest e (eDstW e) (ownR1 (eDst e)) ++ chk ((eDst e).total != n) 4 69
      ++ (if eRawOut e then chkDense (eDst e) n 69 else chk (!fmtCastable (eDstFmt e)) 3 5)
      else chk (eRchip e == 0xFFFF || (!local_ && linkPorts == 0)) 3 102 ++ chk (!local_ && decide (eLport e ≥ linkPorts)) 3 106)

/-- The conditions of each data and link opcode. -/
def chkData (linkPorts self e : Nat) (list : Option (List Byte)) (o : Op) : List (Nat × Nat) :=
  let src := eSrcFmt e
  let dst := eDstFmt e
  chkRnd e ++
  match o with
  | .move => chkPlain e ++ chk (src != dst) 3 5 ++ chk (eWin e) 3 4
  | .fill =>
    chkFmts e ++ chkCounts (eSrc e) 16 ++ chkDest e (fmtWidth dst) (ownR1 (eDst e)) ++ chkPad e (fmtWidth src)
    ++ chkTotals e ++ chk (src != dst) 3 5 ++ chk (eWin e) 3 4
  | .cast => chkPlain e ++ chk (!fmtCastable src || !fmtCastable dst) 3 5 ++ chk (eWin e) 3 4
  | .pack =>
    chkPlain e ++ chk (!fmtCastable src || !fmtNarrow dst) 3 5 ++ chkScale e (eDst e).run (eDst e).total
    ++ chk (eGrp e == 0 && eScaleRule e != 0 && decide ((eDst e).run * fmtWidth src > 8 * 32768)) 3 4 ++ chkWin e
  | .unpack =>
    chkPlain e ++ chk (!fmtNarrow src || !fmtCastable dst) 3 5 ++ chkScale e (eSrc e).run (eSrc e).total
    ++ chk (eCt e && eScaleRule e != 0) 3 4 ++ chkWin e
  | .gather =>
    chkFmts e ++ chkSource e (fmtWidth src) (idxR1 e) ++ chkDest e (fmtWidth dst) (ownR1 (eDst e))
    ++ chkPad e (fmtWidth src) ++ chkTotals e ++ chkIndex e (eSrc e) 18
    ++ chk ((eSrc e).start1 != 0) 3 43 ++ chk ((eSrc e).ext1 != 0) 3 53 ++ chk (src != dst) 3 5 ++ chk (eWin e) 3 4
  | .scatter =>
    chkFmts e ++ chkSource e (fmtWidth src) (ownR1 (eSrc e)) ++ chkDest e (fmtWidth dst) (idxR1 e)
    ++ chkPad e (fmtWidth src) ++ chkTotals e ++ chkIndex e (eDst e) 71 ++ chk (eWalk e != 0) 3 6
    ++ chk (src != dst) 3 5 ++ chk (eWin e) 3 4
  | .scatterAdd =>
    chkFmts e ++ chkSource e (fmtWidth src) (ownR1 (eSrc e)) ++ chkDest e (fmtWidth dst) (idxR1 e)
    ++ chkPad e (fmtWidth src) ++ chkTotals e ++ chkIndex e (eDst e) 71 ++ chk (eWalk e != 0) 3 6
    ++ chk (!(dst == 0 || dst == 1 || dst == 2) || fmtIsCb src) 3 5 ++ chk (eWin e) 3 4
    ++ chk (ePeriod e != 0) 3 124
  | .contract => chkContract e ++ chk (ePeriod e != 0) 3 124
  | .linkput =>
    chkPlain e ++ chk (decide (eLport e ≥ linkPorts)) 3 106 ++ chk (eRchip e == 0xFFFF || eRchip e == self || linkPorts == 0) 3 102
    ++ chk (src != dst) 3 5 ++ chk (eWin e) 3 4 ++ chk (ePeriod e != 0) 3 124
  | .mcast =>
    chkPlain e ++ chk (eMcCnt e == 0 || decide (eMcCnt e > 16)) 3 110 ++ chk (eMcList e % 16 != 0) 3 102
    ++ chkList linkPorts list ++ chk (src != dst) 3 5 ++ chk (eWin e) 3 4 ++ chk (ePeriod e != 0) 3 124
  | _ => chkReduce linkPorts self e ++ chk (eWin e) 3 4 ++ chk (ePeriod e != 0) 3 124

/-- The conditions of a program-control opcode (Table 9.12, R279). -/
def chkControl (e : Nat) (o : Op) : List (Nat × Nat) :=
  match o with
  | .fence => chk (eFenceKind e == 3) 3 8
  | .signal => chk (eSigCount e == 0) 3 10 ++ chk (eSigKind e == 3) 3 12
  | .tickwait =>
    if eAligned e then chk (eTicks e == 0) 3 12 ++ chk (decide (ePhase e ≥ eTicks e)) 3 12
    else chk (ePhase e != 0) 3 16
  | .link => chk (eTarget e % 128 != 0) 3 8
  | _ => []

/-- Every failing condition of an entry but the codebook's and the link loop's, which look at the engine (R100, R280). -/
def entryFaults (linkPorts self e : Nat) (list : Option (List Byte)) : List (Nat × Nat) :=
  chk (crc16 (leBytes (e >>> 16) 126) != bits e 0 16) 1 0 ++
  match opOf e with
  | none => chk true 2 0 ++ chk (fld e 3 0 8 != 1) 6 0
  | some o =>
    chk (fld e 3 0 8 != 1) 6 0 ++ chkReserved e o
    ++ (if opIsControl o then chkControl e o else chkData linkPorts self e list o)

/-- The latched cause and offset: the smallest cause, and its lowest byte for causes 0x03 to 0x05 (R293, R341). DEDUCED, log 14. -/
def pickFault (l : List (Nat × Nat)) : Option (Nat × Nat) :=
  match l with
  | [] => none
  | c :: r =>
    let m := r.foldl (fun m x => if x.1 < m.1 || (x.1 == m.1 && x.2 < m.2) then x else m) c
    some (m.1, if m.1 = 3 || m.1 = 4 || m.1 = 5 then m.2 else 0)

end Sys2Proof.Machine
end

