-- ==== Sys2Proof/Machine/Ops.lean ====
section
/-!
DEFINITION. Ops.lean: the named operations over the state's arrays and over the block's own RAMs, the free values, and the
wrappers every command is written with.
-/
namespace Sys2Proof.Machine

/-- What a step answers. -/
abbrev Out := Host.Outcome State Fault Refusal

/-! ### Memory of the block: the crib and the granger's memory (DESIGN CHOICE, log 1) -/

/-- What an unlisted address reads as: cold reset clears both arrays to zero (R98, R443). -/
def Memory.unlisted : Byte := 0#8

/-- The byte at an address. -/
def Memory.read : Memory → Nat → Byte
  | [], _ => Memory.unlisted
  | (a, b) :: r, k => if a = k then b else Memory.read r k

/-- Stores a byte, keeping the canonical form. -/
def Memory.write : Memory → Nat → Byte → Memory
  | [], k, v => if v = Memory.unlisted then [] else [(k, v)]
  | (a, b) :: r, k, v =>
    if k < a then (if v = Memory.unlisted then (a, b) :: r else (k, v) :: (a, b) :: r)
    else if a = k then (if v = Memory.unlisted then r else (k, v) :: r)
    else (a, b) :: Memory.write r k v

/-- Stores consecutive bytes from an address. -/
def Memory.writeAll (m : Memory) (a : Nat) : List Byte → Memory
  | [] => m
  | b :: r => Memory.writeAll (m.write a b) (a + 1) r

/-- n bytes from an address. -/
def Memory.readN (m : Memory) (a : Nat) : Nat → List Byte
  | 0 => []
  | n + 1 => m.read a :: Memory.readN m (a + 1) n

/-- The canonical form above address lo: addresses rising, no entry equal to what an unlisted address reads as. -/
def Memory.wfFrom : Nat → Memory → Bool
  | _, [] => true
  | lo, (a, b) :: r => decide (lo ≤ a) && b != Memory.unlisted && Memory.wfFrom (a + 1) r

/-- The canonical form. -/
def Memory.wf (m : Memory) : Bool := Memory.wfFrom 0 m

/-! ### The arrays of units -/

/-- Queue q. -/
def State.getQ (s : State) (q : Nat) : Queue := s.qs.getD {} q
def State.setQ (s : State) (q : Nat) (v : Queue) : State := { s with qs := s.qs.put q v }
def State.modQ (s : State) (q : Nat) (f : Queue → Queue) : State := s.setQ q (f (s.getQ q))

/-- Tally t. -/
def State.getT (s : State) (t : Nat) : Tally := s.tal.tally.getD {} t
def State.setT (s : State) (t : Nat) (v : Tally) : State := { s with tal.tally := s.tal.tally.put t v }

/-- Host channel c. -/
def State.getH (s : State) (c : Nat) : HostCh := s.hst.getD {} c
def State.setH (s : State) (c : Nat) (v : HostCh) : State := { s with hst := s.hst.put c v }

/-- Bay b. -/
def State.getB (s : State) (b : Nat) : Bay := s.bay.getD {} b
def State.setB (s : State) (b : Nat) (v : Bay) : State := { s with bay := s.bay.put b v }
def State.modB (s : State) (b : Nat) (f : Bay → Bay) : State := s.setB b (f (s.getB b))

/-- Link port n. -/
def State.getP (s : State) (n : Nat) : Port := s.lnk.port.getD {} n
def State.setP (s : State) (n : Nat) (v : Port) : State := { s with lnk.port := s.lnk.port.put n v }
def State.modP (s : State) (n : Nat) (f : Port → Port) : State := s.setP n (f (s.getP n))

/-- The core of a private source, the target core's reset value (R367, SIG_SRC_CFG). -/
def privateCore (n : Nat) : Nat := (n - 512) / 16

/-- Interrupt source n at reset: a private source's target is its core. -/
def srcReset (n : Nat) : Src := { cfg := BitVec.ofNat 32 (if n < 512 then 0 else privateCore n) }

/-- Interrupt source n. -/
def State.getS (s : State) (n : Nat) : Src := s.sig.src.getD (srcReset n) n
def State.setS (s : State) (n : Nat) (v : Src) : State := { s with sig.src := s.sig.src.put n v }
def State.modS (s : State) (n : Nat) (f : Src → Src) : State := s.setS n (f (s.getS n))

/-- The flight of an id, of an entry, or of a receive stream. -/
def State.flightOf (s : State) (id : Nat) : Option Flight := s.flights.find? fun f => f.id == id
def State.flightAt (s : State) (q pos : Nat) : Option Flight :=
  s.flights.find? fun f => f.rx.isNone && f.q == q && f.pos == pos
def State.rxAt (s : State) (n xid : Nat) : Option Flight :=
  s.flights.find? fun f => match f.rx with
    | some r => r.port == n && r.xid == xid
    | none => false

/-- Puts a flight in place of the one with its id. -/
def State.setF (s : State) (f : Flight) : State :=
  { s with flights := s.flights.map fun g => if g.id = f.id then f else g }
def State.dropF (s : State) (id : Nat) : State := { s with flights := s.flights.filter fun g => g.id != id }

/-- Adds a flight under the next id. -/
def State.addF (s : State) (f : Flight) : State :=
  { s with flights := s.flights ++ [{ f with id := s.nextId }], nextId := s.nextId + 1 }

/-- The entry of the window of queue q at position pos. -/
def Queue.slotAt (y : Queue) (pos : Nat) : Option Slot := y.win.find? fun x => x.pos == pos
def Queue.setSlot (y : Queue) (x : Slot) : Queue := { y with win := y.win.map fun z => if z.pos = x.pos then x else z }

/-- Positions in a queue's ring, modulo 2S (R276). -/
def Queue.size (y : Queue) : Nat := 2 ^ y.k
def Queue.after (y : Queue) (p n : Nat) : Nat := (p + n) % (2 * y.size)

/-- Distance from a to b modulo 2S. -/
def ringDist (size a b : Nat) : Nat := (b + 2 * size - a % (2 * size)) % (2 * size)

/-- Adds to a list of numbers at a place. -/
def listSet (l : List Nat) (i v : Nat) : List Nat := l.set i v

/-! ### Free values (DESIGN CHOICE, log 9) -/

/-- n free bytes, each of its own number. -/
def State.freeBytes (s : State) (n : Nat) : List Byte × State :=
  ((List.range n).map fun i => Config.freeByte (s.free + i), { s with free := s.free + n })

/-- The next free 64-bit word. -/
def State.freeDWord (s : State) : DWord × State := (Config.freeDWord s.free, { s with free := s.free + 1 })

/-! ### How commands are written -/

/-- Whether the block's clocks run: a frozen block does nothing (R427). -/
def State.runs (s : State) : Bool := s.eng.state != .frozen

/-- The wake and interrupt outputs are held while the engine is in SAFE (R377, R390). -/
def State.held (s : State) : Bool := s.eng.state == .safe

/-- A command that takes effect while `c` holds and the block's clocks run, and otherwise finds nothing to do (DESIGN CHOICE, log 4). -/
def act (s : State) (c : Bool) (f : State → State) : Out :=
  .next (if s.runs && c then f s else s)

/-- Applies f to each element in turn. -/
def each {α : Type} (s : State) (l : List α) (f : State → α → State) : State := l.foldl f s

/-- Whether a tick has been counted in this GCLK. -/
def State.ticked (s : State) : Bool := s.tick.count != s.start.tick.count

/-- GCLK since a moment. -/
def State.sinceG (s : State) (t : Nat) : Nat := s.clk.gclk - t

/-- The GCLK by which a front-end request issued now must have its response: FETCH_TIMEOUT × 700 GCLK on (R287, DEDUCED, log 18). -/
def State.feBy (s : State) : Nat := s.clk.gclk + 700 * s.eng.fetchTimeout.toNat
/-- Whether a front-end request's time has run out (R287). DESIGN CHOICE, log 34. -/
def State.feLate (s : State) (due : Nat) : Bool := decide (s.clk.gclk ≥ due)

/-- A control-space write reaches the register at an offset: a second one in the same GCLK counts (R310). DEDUCED, log 19.
DESIGN CHOICE, log 3. -/
def noteReg (s : State) (off : Nat) : State :=
  { s with eng.collide := if s.clk.writes.contains off then s.eng.collide + 1 else s.eng.collide
           clk.writes := off :: s.clk.writes }

/-- A port accepts an access, whose cq_id is an input (R420; DESIGN CHOICE, log 38): it will have one response (R421). -/
def Cs.accept (c : Cs) (port : Nat) (done : Bool) (v : DWord) : Cs :=
  let n := c.id.getD 0 port
  { c with resp := c.resp.put port (c.resp.getD [] port ++ [{ id := Config.cqId port n % 1024, data := v, done }])
           id := c.id.put port (n + 1) }

/-- The oldest access that waits has been applied. -/
def respDone (v : DWord) : List CsResp → List CsResp
  | [] => []
  | x :: l => if x.done then x :: respDone v l else { x with data := v, done := true } :: l

/-- A port's access is answered: one accepted now, or one that had to wait (R420, R421). -/
def Cs.answer (c : Cs) (port : Nat) (v : DWord) : Cs :=
  if c.cur then { c with resp := c.resp.put port (respDone v (c.resp.getD [] port)) } else c.accept port true v

/-- cr_data of the last access of a port. -/
def Cs.data (c : Cs) (port : Nat) : DWord :=
  match (c.resp.getD [] port).getLast? with
  | some x => x.data
  | none => match c.last.find? fun x => x.1 == port with | some (_, x) => x.data | none => 0#64

/-- An access by a mesh port is answered; the debug access path has its own way (R458). -/
def answered (s : State) (port : Nat) (v : DWord) : State := { s with cs := if port < s.cfg.bays then s.cs.answer port v else s.cs }

/-- A mesh port's write has a grant of this GCLK's (Table 7.5); the debug access path needs none (R264). -/
def csGrant (s : State) (port : Nat) : State :=
  { s with clk.ports := if port < s.cfg.bays then port :: s.clk.ports else s.clk.ports }

/-- A write by a port is granted, reaches a register, and is answered with zero (R420). -/
def noteWrite (s : State) (port off : Nat) : State := answered (csGrant (noteReg s off) port) port 0#64

/-- During the self-test, writes from the mesh ports to the Q_, TAL_ and HST_ blocks and the push windows are ignored (R439). -/
def testShut (s : State) (port off : Nat) : Bool :=
  s.eng.state == .test && decide (port < s.cfg.bays)
  && ((decide (0x200000 ≤ off) && decide (off < 0x800000)) || (decide (0x28000 ≤ off) && decide (off < 0x28800))
      || (decide (0x1000000 ≤ off) && decide (off < 0x3000000)))

/-! ### The control-space write arbiter (Table 7.5, R261 to R266, R310, R421, R458) -/

/-- The mesh port whose write a command is. -/
def csPort : Instr → Option Nat
  | .adminQueueEnable p _ => some p
  | .adminQueueDisable p => some p
  | .admStrike p => some p
  | .qStrike p _ => some p
  | .push p _ _ _ => some p
  | .enable p _ => some p
  | .disable p _ => some p
  | .abort p _ => some p
  | .tallyArrive p _ _ _ => some p
  | .tallyRelease p _ => some p
  | .tallyLoad p _ _ => some p
  | .tallyPlainFire p _ => some p
  | .watchdogArm p _ _ => some p
  | .talFaultClear p _ => some p
  | .hstDoorbell p _ _ _ => some p
  | .sigEoi p _ => some p
  | .sigPendSet p _ => some p
  | .sigPendClr p _ => some p
  | .sigGlobalEnable p _ => some p
  | .fltAck p _ => some p
  | .fltInject p _ => some p
  | .fltSrcCfgWrite p _ _ => some p
  | .linkEnable p _ _ => some p
  | .linkReset p _ _ => some p
  | .engLatTolWrite p _ => some p
  | .fwLoad p _ => some p
  | .fwReuse p => some p
  | .granInvAll p => some p
  | .stackDecodeWrite p _ _ => some p
  | .engTickCfgWrite p _ => some p
  | .cribWrite p _ _ _ => some p
  | .queueCounterWrite p _ _ _ => some p
  | .halfWrite64 p _ _ => some p
  | .registerWrite p _ _ _ => some p
  | _ => none

/-- Whether a command is an admin command that writes control-space registers on the granger's behalf (R310). -/
def csGranger : Instr → Bool
  | .createQueue => true
  | .setClass => true
  | .setRt => true
  | .bindTally => true
  | _ => false

/-- Whether a command is an access of the debug access path. -/
def csDebug : Instr → Bool
  | .debugRead _ _ => true
  | .debugWrite _ _ _ => true
  | .debugReadAdvance _ _ => true
  | _ => false

/-- Whether a port accepts an access: it holds fewer than eight that have not had their responses (R421). -/
def csRoom (s : State) (port : Nat) : Bool := decide (s.cfg.bays ≤ port) || decide ((s.cs.resp.getD [] port).length < 8)

/-- Whether a mesh port's write is the only one of its GCLK that asks the arbiter: no other port asks, the port has had no grant, and no
debug access holds the arbiter (R261, R264). The commands that still wait in the queue belong to this GCLK too. -/
def csAlone (s : State) (port : Nat) : Bool :=
  s.cs.wait.isEmpty && !s.dbg.busy && !s.clk.ports.contains port && decide (s.clk.ports.length < 4)
  && !s.pending.any fun c => csDebug c || match csPort c with | some p => p != port | none => false

/-- Whether a port's write is applied at once: the rounds have granted it, it is the debug access path's, or it is accepted and asks alone.
-/
def csOpen (s : State) (port : Nat) : Bool := s.cs.cur || decide (s.cfg.bays ≤ port) || (csRoom s port && csAlone s port)

/-- A control-space write of a port (Table 7.5, R421): one that asks alone is applied at once; any other that the port accepts waits for the
rounds, the first of which is this GCLK's. One that the port cannot accept finds cq_ready at 0 and is not taken (DESIGN CHOICE, log 38). -/
def csTake (i : Instr) (port : Nat) (s : State) (f : State → State) : Out :=
  act s true fun s =>
    if csOpen s port then f s
    else if !csRoom s port then s
    else { s with cs := { s.cs.accept port false 0#64 with wait := s.cs.wait ++ [i] } }

/-- Whether mesh ports' writes of this GCLK are still to be applied. -/
def csMeshDue (s : State) : Bool := !s.cs.cur && (!s.cs.wait.isEmpty || s.pending.any fun c => (csPort c).isSome)

/-- A write of the granger's, on behalf of an admin command, follows the mesh ports' writes of its GCLK (R310). -/
def csAfterMesh (i : Instr) (s : State) (go : Bool) (f : State → Out) : Out :=
  if go && csMeshDue s then act s true fun s => { s with cs.late := s.cs.late ++ [i] } else f s

/-- A control-space write command from a mesh port: once granted, the write is counted (R310), and acts while `c` holds. -/
def wr (i : Instr) (s : State) (port off : Nat) (c : State → Bool) (f : State → State) : Out :=
  csTake i port s fun s => let s := noteWrite s port off; if c s && !testShut s port off then f s else s

/-- What some front-end requests are for is discarded: they stay outstanding until their responses return or their time runs out
(R287, R415). -/
def feDiscard (s : State) (p : FeUse → Bool) : State :=
  { s with fe := s.fe.map fun r => if p r.use then { r with gone := true } else r }

/-- R3: whether a unit number lies below what the configuration has. -/
def State.hasBay (s : State) (b : Nat) : Bool := decide (b < s.cfg.bays)
def State.hasPort (s : State) (n : Nat) : Bool := decide (n < s.cfg.linkPorts)

end Sys2Proof.Machine
end

