-- ==== Sys2Proof/Machine/Flags.lean ====
section
/-!
DEFINITION. Flags.lean: the computations on status and flags that many commands share: classification and recording of
faults (11), counting arrivals and firing tallies (10), interrupt-source inputs (10), queue status.
-/
namespace Sys2Proof.Machine

/-! ### Interrupt-source inputs (R367, R368) -/

/-- Sources with an input that pulses (Table 10.3). -/
def srcIsPulse (n : Nat) : Bool :=
  n == 1 || n == 2 || n == 6 || n == 7 || (decide (128 ≤ n) && decide (n < 512))
  || (decide (512 ≤ n) && decide (n < 33280) && decide (1 ≤ (n - 512) % 16) && decide ((n - 512) % 16 ≤ 5))

/-- Sources whose input follows a register or a state (Table 10.3). -/
def srcIsLevel (s : State) (n : Nat) : Bool :=
  n == 0 || n == 3 || n == 4 || n == 5 || n == 8 || (decide (16 ≤ n) && decide (n < 16 + s.cfg.linkPorts))
  || (decide (512 ≤ n) && decide (n < 33280) && (n - 512) % 16 == 0)

/-- Whether some queue owned by core c is in ERROR. -/
def ownerInError (s : State) (c : Nat) : Bool := s.qs.any fun (_, y) => y.owner == c && y.state == .error

/-- The value a level input follows (Table 10.3). -/
def srcLevel (s : State) (n : Nat) : Bool :=
  if n = 0 then decide (s.flt.level > 0)
  else if n = 3 then s.adm.state == .error
  else if n = 4 then decide (s.tal.stray > 0)
  else if n = 5 then decide (s.sig.stray > 0)
  else if n = 8 then decide (s.crib.dropCnt > 0)
  else if n < 16 + s.cfg.linkPorts then (s.getP (n - 16)).state == .fenced
  else ownerInError s (privateCore n)

/-- A pulse on a source's input: a rise that waits to be sensed in the next GCLK (R368). -/
def pulse (s : State) (n : Nat) : State := if srcIsPulse n then s.modS n fun x => { x with rise := true, pulseAt := some s.clk.gclk } else s

/-- The current value of a source's input (SIG_PEND.input): a pulse shows in the GCLK after it, and a reserved source's input is 0. -/
def srcInput (s : State) (n : Nat) : Bool :=
  if srcIsPulse n then (match (s.getS n).pulseAt with | some g => s.clk.gclk == g + 1 | none => false)
  else srcIsLevel s n && srcLevel s n

/-- The output fault_n (R386): low from the GCLK after level became B or higher to that of the recovery; high from a reset (R404). -/
def faultN (s : State) : Bool := s.start.flt.level == 0

/-- A private slot of the core that owns queue q (Table 10.3). -/
def pulseOwner (s : State) (q slot : Nat) : State := pulse s (512 + 16 * (s.getQ q).owner + slot)

/-! ### Faults (R378 to R389) -/

/-- R380: the sources that raise events. -/
def srcDefined (n : Nat) : Bool := decide (1 ≤ n) && decide (n ≤ 0x1B)

/-- Table 11.2: class, count_n and window of a source. -/
def srcDefaults (n : Nat) : Nat × Nat × Nat :=
  match n with
  | 1 => (1, 16, 100) | 2 => (1, 16, 100) | 3 => (1, 64, 100) | 4 => (1, 4, 1000) | 5 => (0, 255, 1000)
  | 6 => (1, 32, 100) | 7 => (1, 0, 0) | 8 => (1, 16, 100) | 9 => (1, 16, 100) | 10 => (1, 4, 100)
  | 11 => (1, 16, 100) | 12 => (1, 0, 0) | 13 => (1, 0, 0) | 14 => (2, 0, 0) | 15 => (2, 0, 0) | 16 => (2, 0, 0)
  | 17 => (3, 0, 0) | 23 => (0, 64, 10) | _ => (0, 0, 0)

/-- Reset value of FLT_SRC_CFG: window 31:16, count_n 15:8, hist 2, class 1:0; a reserved source reads as zero. -/
def fltCfgReset (n : Nat) : Word :=
  if srcDefined n then
    let (c, k, w) := srcDefaults n
    BitVec.ofNat 32 (w * 65536 + k * 256 + 4 + c)
  else 0#32

/-- FLT_SRC_CFG of a source. -/
def fltCfg (f : FaultUnit) (n : Nat) : Word := f.cfg.getD (fltCfgReset n) n

/-- What classification answers: the unit's new state, the class recorded, whether counted, whether escalated. -/
structure Classed where
  unit : FaultUnit
  k : Nat
  counted : Bool
  esc : Bool
  deriving DecidableEq, Repr

/-- Counting of classify(): the unit with its counters moved, and whether this event is the count_n-th of its window (R381). -/
def countEvent (f : FaultUnit) (t src : Nat) : FaultUnit × Bool :=
  let cfg := (fltCfg f src).toNat
  let n := bits cfg 8 8
  if n = 0 then (f, false)
  else
    let c0 := f.cnt.getD 0 src
    let open_ := c0 == 0 || decide (t ≥ f.wstart.getD 0 src + bits cfg 16 16)
    let c := (if open_ then 0 else c0) + 1
    let f := if open_ then { f with wstart := f.wstart.put src t } else f
    ({ f with cnt := f.cnt.put src (if c = n then 0 else c) }, c == n)

/-- classify() of R381 at tick t. -/
def classify (f : FaultUnit) (t src : Nat) : Classed :=
  let k0 := bits (fltCfg f src).toNat 0 2
  let (f, full) := countEvent f t src
  let counted := full && decide (k0 < 2)
  let k := if counted then 2 else k0
  let esc := (k == 1 || k == 2) && f.unack.getD false k && decide (t > f.tOpen.getD 0 k + 1)
  let k := if esc then k + 1 else k
  let f :=
    if k ≥ 1 then
      let f := if f.unack.getD false k then f else { f with unack := f.unack.put k true, tOpen := f.tOpen.put k t }
      { f with level := max f.level k, quiet := 0, recDue := false, hits := k :: f.hits }
    else f
  { unit := f, k, counted, esc }

/-- The history record of an event (Table 11.3), as a number. -/
def histRecord (e : Ev) (t seq k k0 : Nat) (counted esc : Bool) : Nat :=
  let flags := k + 4 * k0 + 16 * b2n counted + 32 * b2n esc + 64 * b2n e.injected + 128 * b2n e.inst.isSome
  let (q, p) := e.inst.getD (0, 0)
  t % 2 ^ 48 + seq * 2 ^ 48 + e.src * 2 ^ 72 + flags * 2 ^ 80 + e.sub * 2 ^ 88 + e.unit * 2 ^ 96 + q * 2 ^ 112
    + p * 2 ^ 128 + (e.detail % 2 ^ 104) * 2 ^ 152

/-- Writes one record into the circular array (R388). -/
def putHist (f : FaultUnit) (r : Nat) : FaultUnit :=
  { f with hist := f.hist.put (f.nextSeq % 32) (BitVec.ofNat 256 r), nextSeq := (f.nextSeq + 1) % 2 ^ 24 }

/-- Whether a front-end request reads the firmware image. -/
def feImage : FeUse → Bool
  | .image _ => true
  | _ => false

/-- A load stops under a cause (R438): its image reads are discarded. -/
def stopLoad (s : State) (cause : Nat) : State :=
  { feDiscard s feImage with
    eng.cause := cause, eng.hashing := false, eng.gHeld := true
    eng.imgKept := if s.eng.reuse then s.eng.imgKept else false }

/-- What a class D record does by engine state (R390, R431, R432). -/
def classD (s : State) : State :=
  match s.eng.state with
  | .service => { s with flt.safeDue := true }
  | .load => if s.eng.cause = 0 then stopLoad s 6 else s
  | .test => if s.eng.cause = 0 then { s with eng.cause := 0x12, eng.gHeld := true } else s
  | _ => s

/-- An event reaches the fault unit, which classifies it with the others of its GCLK (R380, R382). -/
def raise (s : State) (e : Ev) : State := if srcDefined e.src then { s with flt.evs := s.flt.evs ++ [e] } else s

/-- Events reach the fault unit one after another. -/
def raiseAll (s : State) (evs : List Ev) : State := evs.foldl raise s

/-- An event is classified and recorded (R378 to R388). -/
def record (s : State) (e : Ev) : State :=
  if !srcDefined e.src then s
  else
    let cfg := fltCfg s.flt e.src
    let c := classify s.flt s.tick.count.toNat e.src
    let s1 := { s with flt := c.unit }
    let s2 := if c.k = 3 then classD s1 else s1
    if cfg.getLsbD 2 then
      pulse { s2 with flt := putHist s2.flt (histRecord e s.tick.count.toNat s2.flt.nextSeq c.k (bits cfg.toNat 0 2) c.counted c.esc) } 1
    else s2

/-! ### Tallies (R352 to R363) -/

/-- Whether a pulse of a wire is in progress, or begins after this GCLK (R357). -/
def Wire.busy (x : Wire) (g : Nat) : Bool := match x.firedAt with | some a => decide (g ≤ a + 2) | none => false

/-- Whether a wire's pulse is high in a GCLK: from the GCLK after the first firing to the second after the last (R357). -/
def Wire.high (x : Wire) (g : Nat) : Bool := x.busy g && decide (x.since < g)

/-- The level of a wake wire: low while the outputs are held, and of a frozen block (R357, R377, R427). -/
def wireLevel (s : State) (n : Nat) : Bool := s.runs && !s.held && (s.tal.wire.getD {} n).high s.clk.gclk

/-- A wire fires in a GCLK: a pulse in progress goes on (R357). -/
def Wire.fire (x : Wire) (g : Nat) : Wire := { x with firedAt := some g, since := if x.busy g then x.since else g }

/-- A bound wake wire fires in this GCLK, or is marked while outputs are held (R357, R377). -/
def fireWire (s : State) (w : Wake) : State :=
  if w.valid then
    let x := s.tal.wire.getD {} w.wire
    { s with tal.wire := s.tal.wire.put w.wire (if s.held then { x with marked := true } else x.fire s.clk.gclk) }
  else s

/-- Whether a host channel watched a tally as the GCLK began (R365). -/
def watches (s : State) (c t : Nat) : Bool :=
  let h := s.start.hst.getD {} c
  s.cfg.hostSignal && h.valid && h.tally == t

/-- fire_outputs() of R353: wake wires (R357), host channels (R365), the tally's shared source, as the registers stood when the GCLK
began. -/
def fireOutputs (s : State) (t : Nat) : State :=
  let y := s.getT t
  let z := s.start.tal.tally.getD {} t
  let s := each s [y.wake0, y.wake1, y.wake2, y.wake3] fireWire
  let s := { s with hst := s.hst.map fun (c, h) => (c, if watches s c t then { h with pending := true } else h) }
  if z.sigEn then pulse s z.sigSrc else s

/-- Adds to TAL_STRAY_CNT (R352, R364). -/
def addStray (s : State) (n : Nat) : State := { s with tal.stray := s.tal.stray + n }

/-- The kinds of arrivals (10). -/
inductive Arr where
  | normal | faulted | abandoned
  deriving DecidableEq, Repr

/-- count_arrivals() of R353 on a bound tally for arrivals of one kind: the tally, and whether it fired. -/
def countArrivals (y : Tally) (k : Arr) (n : Nat) : Tally × Bool :=
  let y := if k != .normal && !y.fault then { y with fault := true, epoch := (y.fire + 1) % 65536 } else y
  let y := if k == .abandoned then { y with abandon := min (y.abandon + n) 0xFFF } else y
  let sum := y.count + n
  let rounds := sum / y.target
  let left := sum % y.target
  ({ y with count := left, fire := (y.fire + rounds) % 65536, idle := 0
            armed := if left > 0 then true else if rounds > 0 then false else y.armed }, decide (rounds > 0))

/-- This GCLK brings something to tally t. -/
def talNote (s : State) (t : Nat) (f : TalDo → TalDo) : State := { s with tal.todo := s.tal.todo.put t (f (s.tal.todo.getD {} t)) }

/-- n arrivals of one kind reach tally t: they are counted with the others of their GCLK (R352, R353). -/
def arrive (s : State) (t : Nat) (k : Arr) (n : Nat) : State :=
  talNote s t fun x =>
    match k with
    | .normal => { x with normal := x.normal + n }
    | .faulted => { x with faulted := x.faulted + n }
    | .abandoned => { x with abandoned := x.abandoned + n }

/-- Arrivals of one kind among those of a GCLK. -/
def Tally.take (z : Tally × Bool) (k : Arr) (n : Nat) : Tally × Bool :=
  if n = 0 then z
  else
    let (y, fired) := countArrivals z.1 k n
    (y, z.2 || fired)

/-- The arrivals of a GCLK at a bound tally, kind after kind (R353): the tally, and whether it fired. -/
def Tally.takes (y : Tally) (x : TalDo) : Tally × Bool :=
  Tally.take (Tally.take (Tally.take (y, false) .normal x.normal) .faulted x.faulted) .abandoned x.abandoned

/-- A release (R362): the missing arrivals of the round are counted as abandoned, and the watchdog is disarmed. -/
def Tally.release (y : Tally) : Tally := { (countArrivals y .abandoned (y.target - y.count)).1 with armed := false }

/-- A write of TAL_FORCE to a bound tally (R361, R363): op and value. -/
def Tally.force (z : Tally × Bool) (op : Nat × Nat) : Tally × Bool :=
  let y := z.1
  match op.1 with
  | 1 => (y.release, true)
  | 2 =>
    let n := if op.2 ≥ y.target then y.target - 1 else op.2
    ({ y with count := n, idle := 0, armed := decide (n > 0) }, z.2)
  | 3 => Tally.take z .normal (y.target - y.count)
  | _ => z

/-- What a GCLK's writes and its BIND_TALLY make of a tally before anything is counted (R353 to R355, R361). A W1C write acts before the
arrivals, so that what they set stays set (R17). -/
def Tally.prepare (y : Tally) (x : TalDo) : Tally :=
  let y := if x.clear then { y with fault := false, epoch := 0, abandon := 0 } else y
  let y := if x.arm && y.target != 0 then { y with armed := true, idle := 0 } else y
  match x.bind with
  | some b => { b with sigEn := y.sigEn, sigSrc := y.sigSrc }
  | none => y

/-- One tally at the end of a GCLK (R352, R353, R362): a BIND_TALLY, then writes of TAL_FORCE, then the arrivals, then the expiry of its
watchdog, which an arrival or a load prevents. -/
def talStep (s : State) (t : Nat) (x : TalDo) : State :=
  let y := (s.getT t).prepare x
  if y.target = 0 then addStray (s.setT t y) (x.normal + x.faulted + x.abandoned)
  else
    let (y, f) := x.force.foldl Tally.force (y, false)
    let (y, g) := y.takes x
    let due := x.expire && y.armed && y.late && y.idle != 0
    let s := s.setT t (if due then y.release else y)
    let s := if f || g || due then fireOutputs s t else s
    if due then pulse (raise s { src := 7, unit := t, detail := y.count }) 6 else s

/-- The tally file at the end of a GCLK (R353). -/
def talPass (s : State) : State :=
  let t := each s s.tal.todo fun s x => talStep s x.1 x.2
  { t with tal.todo := [] }

/-- The arrival kind of a register field; 0b11 is none. -/
def arrOf (k : BitVec 2) : Option Arr :=
  match k.toNat with
  | 0 => some .normal | 1 => some .faulted | 2 => some .abandoned | _ => none

/-! ### Bays -/

/-- Whether a bay takes requests: not faulted, not in Nap or Dormant, not waking (R266, R396, R446, R448). -/
def bayAwake (y : Bay) : Bool := !y.faulted && (y.pwr == .active || y.pwr == .idle) && y.waking.isNone

/-- Whether a core's mask bit of either kind is 1 (R266). -/
def coreMasked (s : State) (c : Nat) : Bool := s.masks.rst.contains c || s.masks.pwr.contains c

/-! ### Queues -/

/-- Whether a queue is a real-time queue within budget (R272). -/
def rtIn (y : Queue) : Bool := y.rtBudget != 0 && !y.rtOut

/-- Instructions dispatched and unretired, program control aside (R227, R343). -/
def slotDataDispatched (x : Slot) : Bool :=
  x.st == .dispatched && (match opOf x.raw with | some o => !opIsControl o | none => false)
def Queue.inflight (y : Queue) : Nat := (y.win.filter slotDataDispatched).length

end Sys2Proof.Machine
end

