-- ==== Sys2Proof/Machine/Arbiter.lean ====
section
/-!
DEFINITION. Arbiter.lean: the one rule that every arbiter of Table 7.5 follows (R261 to R266), and the base class of the
streams (R262, R263).
-/
namespace Sys2Proof.Machine

/-- An input that requests in a round and is not masked: its number, base class, rt, and whether it waits on no lock (R261). -/
structure ArbReq where
  i : Nat
  base : Nat
  rt : Bool := false
  eligible : Bool := true
  deriving DecidableEq, Repr

/-- The effective class of an input (R261). -/
def Arb.eff (a : Arb) (r : ArbReq) : Nat := min (r.base + (a.getD {} r.i).loss) 15 + (if r.rt then 16 else 0)

/-- Whether x is picked before y: the greater effective class, then the greater number (R261). -/
def Arb.ahead (a : Arb) (x y : ArbReq) : Bool := decide (a.eff x > a.eff y) || (a.eff x == a.eff y && decide (x.i > y.i))

/-- Puts an input in its place among inputs in the order of picking. -/
def Arb.insert (a : Arb) (x : ArbReq) : List ArbReq → List ArbReq
  | [] => [x]
  | y :: r => if a.ahead x y then x :: y :: r else y :: Arb.insert a x r

/-- The inputs of a list in the order of picking. -/
def Arb.order (a : Arb) (rs : List ArbReq) : List ArbReq := rs.foldr a.insert []

/-- An input after a round in which it requested: one that holds or waits on a lock is as before, a picked one has no loss
and holds in HOLD mode, another one ages (R261, R265). -/
def ArbIn.after (x : ArbIn) (hold picked eligible : Bool) : ArbIn :=
  if !eligible || x.hold then x else if picked then { loss := 0, hold } else { x with loss := min (x.loss + 1) 15 }

/-- round(k) of R261 over the inputs that request and are not masked, in rising number: the inputs that are granted, those
that hold first, and the arbiter after it. An input that does not request has neither loss nor hold. -/
def arbRound (hold : Bool) (k : Nat) (a : Arb) (rs : List ArbReq) : List Nat × Arb :=
  let holds (r : ArbReq) : Bool := (a.getD {} r.i).hold
  let picked := ((a.order (rs.filter fun r => r.eligible && !holds r)).take (k - (rs.filter holds).length)).map (·.i)
  (((rs.filter fun r => r.eligible && holds r).map (·.i)) ++ picked,
   rs.filterMap fun r =>
     let y := (a.getD {} r.i).after hold (picked.contains r.i) r.eligible
     if y = {} then none else some (r.i, y))

/-- The base class of a stream (R262): of its queue and its entry, or of its port for a receive stream. A class written in
this GCLK takes effect at the rounds after it (R263). -/
def Flight.base (s : State) (f : Flight) : Nat :=
  match f.rx with
  | some r => (s.start.lnk.port.getD {} r.port).rxClass
  | none => max (s.start.qs.getD {} f.q).cls (eClass f.raw)

/-- Whether a stream's requests compete with rt = 1 (R262, R273). -/
def Flight.rt (s : State) (f : Flight) : Bool := f.rx.isNone && rtIn (s.getQ f.q)

/-- A stream as an input of an arbiter. -/
def Flight.input (s : State) (f : Flight) (i : Nat) (eligible : Bool) : ArbReq := { i, base := f.base s, rt := f.rt s, eligible }

end Sys2Proof.Machine
end

