-- ==== Sys2Proof/Machine/Issue.lean ====
section
/-!
DEFINITION. Issue.lean: how a request leaves the block and how its answer lands: translation (R243 to R249), the stack
decode (R414), the granary (R255 to R260), locks (R267 to R269), credits (R230 to R232), the rounds in which requests leave
(R261 to R266), and the bytes that land.
-/
namespace Sys2Proof.Machine

/-! ### Stack decode -/

/-- log2 of a power of two of stack ports. -/
def log2Ports (n : Nat) : Nat := Nat.log2 n

/-- Whether a physical address is a stack address, with its port and port-local address (R414, R415). -/
def decodePa (s : State) (pa : Nat) : Option (Nat × Nat) :=
  let base := s.gran.stkBase.toNat
  if base ≤ pa ∧ pa < base + s.gran.stkSize.toNat then
    let off := pa - base
    let i := s.gran.stkIlv
    let k := log2Ports s.cfg.stackPorts
    let lpa := (off >>> (i + k)) <<< i + off % 2 ^ i
    some ((off >>> i) % s.cfg.stackPorts, if lpa < 2 ^ 40 then lpa else Config.freeLpa lpa % 2 ^ 40)
  else none

/-- Sub-channel of a port-local address (R414). -/
def lpaChan (lpa : Nat) : Nat := (lpa >>> 9) % 8

/-! ### The map cache -/

/-- Bytes of a page by cp_size; other codes are entered as 4 KiB (R244). -/
def pageBytes (size : Nat) : Nat :=
  match size with | 1 => 65536 | 2 => 2097152 | 3 => 1073741824 | _ => 4096

/-- Whether an entry's page holds an address. -/
def MapEnt.covers (e : MapEnt) (va : Nat) : Bool := decide (e.va ≤ va) && decide (va < e.va + pageBytes e.size)

/-- Whether an entry's page overlaps an invalidation's range (R425). -/
def MapEnt.hit (e : MapEnt) (r : InvRange) : Bool :=
  r.all || (decide (e.va < r.hi) && decide (r.lo < e.va + pageBytes e.size))

/-- The entry that serves an address: any covering one; which, when several do, is open (R244). During the self-test every map cache
translates each address to itself (R439). -/
def mapFind (s : State) (b va : Nat) : Option MapEnt :=
  if s.eng.state = .test then some { va := va / 4096 * 4096, size := 0, pa := va / 4096 * 4096 }
  else
    match (s.getB b).mapc.filter (·.covers va) with
    | [] => none
    | e :: r => some ((e :: r).getD (Config.freePick s.clk.gclk va % (r.length + 1)) e)

/-- Marks an entry as most recently used (R244). -/
def mapTouch (s : State) (b : Nat) (e : MapEnt) : State :=
  s.modB b fun y => { y with mapc := e :: y.mapc.filter (· != e) }

/-- Enters a translation, replacing the least recently used of 1,024 (R244). -/
def mapEnter (s : State) (b : Nat) (e : MapEnt) : State :=
  s.modB b fun y => { y with mapc := (e :: y.mapc.filter (· != e)).take 1024 }

/-- Cuts a request at the boundaries of the pages that hold it (R247); none while a page misses. -/
def pagePieces (s : State) (b : Nat) : Nat → Nat → Nat → Option (List Piece)
  | 0, _, _ => some []
  | fuel + 1, va, len =>
    if len = 0 then some []
    else
      match mapFind s b va with
      | none => none
      | some e =>
        let n := min len (e.va + pageBytes e.size - va)
        match pagePieces s b fuel (va + n) (len - n) with
        | none => none
        | some r => some ({ va, len := n, pa := e.pa + (va - e.va) } :: r)

/-- The first 4 KiB page of a request that misses. -/
def missPage (s : State) (b va len : Nat) : Option Nat :=
  if (mapFind s b va).isNone then some (va / 4096 * 4096)
  else if (mapFind s b (va + len - 1)).isNone then some ((va + len - 1) / 4096 * 4096)
  else none

/-- Cuts a piece at a physical address inside it (R414). -/
def cutAt (c : Nat) (p : Piece) : List Piece :=
  if p.pa < c ∧ c < p.pa + p.len then
    let n := c - p.pa
    [{ p with len := n }, { va := p.va + n, len := p.len - n, pa := c }]
  else [p]

/-- Cuts a piece of stack memory where the interleave passes to the next port (R414): a request holds at most one such place. -/
def cutIlv (s : State) (p : Piece) : List Piece :=
  if (decodePa s p.pa).isSome then
    let base := s.gran.stkBase.toNat
    let g := 2 ^ s.gran.stkIlv
    cutAt (base + ((p.pa - base) / g + 1) * g) p
  else [p]

/-- Cuts a piece at the edges of the stack range, and where the interleave passes from port to port: each piece is served by the port
that its own address selects (R414). -/
def cutPorts (s : State) (p : Piece) : List Piece :=
  let base := s.gran.stkBase.toNat
  ((cutAt base p).flatMap (cutAt (base + s.gran.stkSize.toNat))).flatMap (cutIlv s)

/-- Every port request of a request (R247, R414), or none while a page misses. -/
def portPieces (s : State) (b va len : Nat) : Option (List Piece) := (pagePieces s b 3 va len).map fun l => l.flatMap (cutPorts s)

/-- Marks the entries of every page that bytes lie on as used (R244). -/
def touchPages (s : State) (b : Nat) (ps : List Piece) : State :=
  each s ps fun s p => match mapFind s b p.va with | some e => mapTouch s b e | none => s

/-! ### Locks (R267 to R269) -/

/-- The 256-byte granules of physical bytes. -/
def granulesOf (pa len : Nat) : List Nat := (List.range ((pa + len - 1) / 256 - pa / 256 + 1)).map (pa / 256 + ·)

/-- Serving port of a granule: 0 for a bay's mesh port with its number, else 1 and a slice. -/
def servingPort (s : State) (b g : Nat) : Nat × Nat :=
  match decodePa s (256 * g) with
  | some (p, _) => (1, p)
  | none => (0, b)

/-- Whether bytes lie in a granule that another sequence than flight `id`'s locks: by whatever port it comes, so that an
addition is atomic (R142, R268). DEDUCED, log 36. -/
def lockedOut (s : State) (id pa len : Nat) : Bool :=
  s.locks.any fun l => l.flight != id && (granulesOf pa len).contains l.granule

/-- Whether a write that ends a locked sequence on these bytes is still to be answered: the order of two such sequences
matters, so the second one's read waits (R411). DEDUCED, log 36. -/
def orderHeld (s : State) (pa len : Nat) : Bool :=
  s.writes.any fun w => w.req.lock && (granulesOf w.pa w.req.data.length).any (granulesOf pa len).contains

/-- Whether the serving port of every granule has a free lock (R268). -/
def lockRoom (s : State) (b : Nat) (gs : List Nat) : Bool :=
  gs.all fun g => decide ((s.locks.filter fun l => servingPort s l.bay l.granule == servingPort s b g).length < 64)

/-! ### The elements of a side -/

/-- Stream elements that one entry of a side's array feeds (R242): a shared index feeds its row of every plane, so it counts
from the first element. -/
def sideFeeds (f : Flight) (side : Side) : Nat :=
  let e := f.raw
  let src := eSrc e
  let dst := eDst e
  match side, f.rx with
  | .index, none =>
    let d := if opOf e = some .scatter ∨ opOf e = some .scatterAdd then dst else src
    if eIdxShare e && d.cnt2 * d.cnt3 != 1 then 0 else d.run
  | .scale, none => unitLen e (if opOf e = some .pack then dst.run else src.run)
  | _, _ => 1

/-- Element width of a side of an instruction, for the element numbers of R251. -/
def sideWidth (f : Flight) (side : Side) : Nat :=
  match f.rx with
  | some r => max 1 (fmtWidth r.fmt)
  | none =>
    match side with
    | .source => max 1 (eSrcW f.raw)
    | .dest => max 1 (eDstW f.raw)
    | .index => 32
    | .operand => max 1 (fmtWidth (bits f.raw (8 * 94 + 11) 5))
    | .scale => if eScFmt f.raw = 1 then 16 else 8
    | .other => 128

/-! ### Landing -/

/-- Poison marks of bytes of a request at va, from a response's poison bits, which count blocks from the piece's first. -/
def onesPsn (n : Nat) : BitVec 5 := BitVec.ofNat 5 (2 ^ n - 1)

/-- 64-byte blocks that bytes touch. -/
def blocksOf (va len : Nat) : Nat := (va + len - 1) / 64 - va / 64 + 1

/-- A response under Table 12.5: its bytes (cut or zero-filled to the request) and poison, and whether it is a read error. -/
def takeResp (va len : Nat) (r : Resp) : List Byte × BitVec 5 × Bool :=
  if r.sts = 1#2 ∨ r.sts = 3#2 then (List.replicate len 0#8, onesPsn (blocksOf va len), true)
  else (sliceBytes r.data 0 len, r.psn &&& onesPsn (blocksOf va len), r.sts == 2#2)

/-- Bytes land for a flight, `elem` the first element that they feed. -/
def landIn (f : Flight) (side : Side) (grp va : Nat) (data : List Byte) (psn : BitVec 5) (elem : Nat) : Flight :=
  { f with land := f.land ++ [{ side, grp, va, data, psn, elem }] }

/-- Notes a condition of Table 7.4 that affects the stream from element `elem` on (R242). -/
def flightBad (f : Flight) (elem : Nat) : Flight :=
  { f with bad := true, badFrom := some (match f.badFrom with | some e => min e elem | none => elem) }

/-- Notes a faulting request for the record (R251). -/
def flightFault (f : Flight) (x : SideFault) (elem : Nat) : Flight :=
  flightBad { f with faults := f.faults ++ [x] } elem

/-- The bay of part i of a flight. -/
def Flight.bayOf (f : Flight) (i : Nat) : Nat := (f.parts.getD i { bay := 0 }).bay

/-- A part of a flight that may issue: it holds a context and is not cut off. -/
def partLive (f : Flight) (i : Nat) : Bool :=
  match f.parts[i]? with
  | some p => p.ctx.isSome && !p.gone && !p.cut
  | none => false

/-! ### Credits (R230 to R232) -/

/-- Whether a part stages data in its loft: tiles, one-pass rows, a multicast window (Table 7.2, R232). -/
def stagesLoft (f : Flight) (i : Nat) : Bool :=
  decide ((f.parts.getD i { bay := 0 }).loft > 0) && opOf f.raw != some .contract

/-- Landing slots of a part (R230). -/
def Flight.slotsOf (f : Flight) (i : Nat) : List Landing := f.slots.filter (·.part == i)

/-- Tracker entries held in a bay: by reads that have not been answered, and by landing slots whose data has not left, the
staged ones apart (R230); the port requests of one request share one (R247). -/
def trkHeld (s : State) (b : Nat) : List Nat :=
  ((s.reads.filter (·.bay == b)).map (·.tag)
    ++ s.flights.flatMap fun f => (f.slots.filter fun x => f.bayOf x.part == b && !stagesLoft f x.part).map (·.tag)).eraseDups
/-- Write tags held in a bay (R230). -/
def tagHeld (s : State) (b : Nat) : List Nat := ((s.writes.filter (·.bay == b)).map (·.tag)).eraseDups

/-- The least free number below 2,048. -/
def freeTag (held : List Nat) : Option Nat := (List.range 2048).find? fun i => !held.contains i

/-- L of R231. -/
def creditOf (s : State) (b : Nat) : Nat := max 16 (2048 / max 1 (s.getB b).ctxs.length)

/-- Entries and tags a part holds. -/
def partReads (s : State) (f : Flight) (i : Nat) : Nat :=
  (s.reads.filter fun r => r.flight == f.id && r.req.part == i).length + (if stagesLoft f i then 0 else (f.slotsOf i).length)
def partWrites (s : State) (f : Flight) (i : Nat) : Nat := (s.writes.filter fun r => r.flight == f.id && r.req.part == i).length

/-- A part's read credit (R232): L minus the entries it holds, and for a part that stages data in its loft no more than the
256-byte places that are free there. -/
def readCredit (s : State) (f : Flight) (i : Nat) : Nat :=
  let c := creditOf s (f.bayOf i) - partReads s f i
  if stagesLoft f i then min c ((f.parts.getD i { bay := 0 }).loft / 256 - (f.slotsOf i).length) else c

/-- A part's write credit (R231). -/
def writeCredit (s : State) (f : Flight) (i : Nat) : Nat := creditOf s (f.bayOf i) - partWrites s f i

/-- Whether a flight's part may issue now: the engine is not in SAFE (R390), its bay and its owner are not masked (R266). -/
def mayIssue (s : State) (f : Flight) (i : Nat) : Bool :=
  !s.held && partLive f i && bayAwake (s.getB (f.bayOf i))
  && (f.rx.isSome || !coreMasked s (s.getQ f.q).owner)

/-! ### The granary -/

/-- The line of a slice. -/
def lineOf (s : State) (slice line : Nat) : Option Line := s.gran.lines.find? fun l => l.slice == slice && l.line == line
def fillOf (s : State) (slice line : Nat) : Option Fill := s.gran.fills.find? fun l => l.slice == slice && l.line == line

/-- Most recently used first (R255). -/
def lineTouch (s : State) (l : Line) : State :=
  { s with gran.lines := l :: s.gran.lines.filter fun x => !(x.slice == l.slice && x.line == l.line) }

/-- Allocates a line in its set of 16 ways, replacing the least recently used (R255). -/
def lineAlloc (s : State) (l : Line) : State :=
  let inSet (x : Line) : Bool := x.slice == l.slice && x.line % 512 == l.line % 512
  let others := s.gran.lines.filter fun x => !(x.slice == l.slice && x.line == l.line)
  let keep := ((l :: others).filter inSet).take 16
  { s with gran.lines := (l :: others).filter fun x => !inSet x || keep.contains x }

/-- Poison bits of a piece of a line at offset `o`, from the line's marks. -/
def linePsn (psn : BitVec 8) (o len : Nat) : BitVec 5 :=
  BitVec.ofNat 5 (psn.toNat >>> (o / 64)) &&& onesPsn (blocksOf o len)

/-- A write updates a line it hits: the bytes, and the marks as the port keeps them (R253, R258). -/
def linePoke (l : Line) (o : Nat) (data : List Byte) (psn : BitVec 5) : Line :=
  let marks := (List.range 8).foldl (fun m j =>
    let lo := 64 * j
    let old := l.psn.getLsbD j
    let touched := decide (o < lo + 64) && decide (lo < o + data.length)
    let whole := decide (o ≤ lo) && decide (lo + 64 ≤ o + data.length)
    let bit := touched && psn.getLsbD (j - o / 64)
    m + (if bit || (old && !(touched && whole)) then 2 ^ j else 0)) 0
  { l with data := l.data.take o ++ data ++ l.data.drop (o + data.length), psn := BitVec.ofNat 8 marks }

/-- The lines that bytes at a port-local address touch: line, offset in the bytes, length (R255). -/
def lineParts (lpa len : Nat) : List (Nat × Nat × Nat) :=
  let n := min len (512 - lpa % 512)
  (lpa / 512, 0, n) :: (if n < len then [(lpa / 512 + 1, n, len - n)] else [])

/-- A write passes through the granary: it updates every line it hits (R258). It is no use of the line for R255's order of
replacement (DESIGN CHOICE, log 41: the manual does not say). -/
def granWrite (s : State) (pa : Nat) (data : List Byte) (psn : BitVec 5) : State :=
  match decodePa s pa with
  | none => s
  | some (slice, lpa) =>
    each s (lineParts lpa data.length) fun s (line, o, n) =>
      { s with gran.lines := s.gran.lines.map fun l =>
          if l.slice = slice ∧ l.line = line then
            linePoke l ((lpa + o) % 512) (sliceBytes data o n) (BitVec.ofNat 5 (psn.toNat >>> ((lpa + o) / 64 - lpa / 64)))
          else l }

/-- Invalidates every line, and the fills outstanding are not allocated (R259). -/
def granInvalidate (s : State) : State :=
  { s with gran.lines := [], gran.fills := s.gran.fills.map fun x => { x with noAlloc := true } }

/-- Invalidates the lines of a queue (R259). -/
def granInvalidateOwner (s : State) (q : Nat) : State :=
  { s with gran.lines := s.gran.lines.filter fun l => l.owner != q
           gran.fills := s.gran.fills.map fun x => if x.owner = q then { x with noAlloc := true } else x }

/-- Every line that a write of `len` bytes hit is invalidated after an error response (R258). -/
def granDropHit (s : State) (pa len : Nat) : State :=
  match decodePa s pa with
  | none => s
  | some (slice, lpa) =>
    let hit (l : Nat) : Bool := (lineParts lpa len).any (·.1 == l)
    { s with gran.lines := s.gran.lines.filter fun l => !(l.slice == slice && hit l.line)
             gran.fills := s.gran.fills.map fun x => if x.slice == slice && hit x.line then { x with noAlloc := true } else x }

/-! ### Answers -/

/-- Takes an answered request out of the sets that invalidations await (R248). -/
def invAnswered (s : State) (read : Bool) (b tag : Nat) : State :=
  { s with inv := s.inv.map fun v =>
      if read then { v with reads := v.reads.filter (· != (b, tag)) } else { v with writes := v.writes.filter (· != (b, tag)) } }

/-- Landing slots whose data has left: no read of the part that comes before is still to be issued or answered (R230). DESIGN CHOICE,
log 43. -/
def drainSlots (s : State) (f : Flight) : Flight :=
  { f with slots := f.slots.filter fun x =>
      (s.reads.any fun r => r.flight == f.id && r.req.part == x.part && decide (r.req.n < x.n))
      || f.todo.any fun r => r.part == x.part && decide (r.n < x.n) }

/-- Bytes of a port request have come, from its byte `off` on: discarded for a part that was cut off (R270). -/
def landPart (s : State) (x : Read) (off : Nat) (data : List Byte) (psn : BitVec 5) (err : Bool) : State :=
  match s.flightOf x.flight with
  | none => s
  | some f =>
    if !partLive f x.req.part then s
    else
      let elem := x.req.elem + 8 * (x.off + off) / sideWidth f x.req.side * sideFeeds f x.req.side
      let g := landIn f x.req.side x.req.grp (x.req.va + off) data psn elem
      s.setF (if err then
          flightFault g { src := 2, side := x.req.side, ord := x.req.ord, detail := x.pa, len := x.req.len, bay := x.bay, off := x.off } elem
        else g)

/-- The locks and the released locks of a locked read keep what it returned (R269). -/
def landLock (s : State) (x : Read) (data : List Byte) : State :=
  let mine (l : Lock) : Bool := x.req.lock && l.flight == x.flight && l.data.isNone && (granulesOf x.pa x.req.len).contains l.granule
  let take (l : Lock) : Lock := if mine l then { l with data := some data } else l
  { s with locks := s.locks.map take, owed := s.owed.map take }

/-- A port request has been answered: the next one of its request waits for its port, or the request is over and its data
waits in its slot for those before it (R230, R247). The port requests of one request go one after another, each when the one before it
has been answered (DESIGN CHOICE, log 45: the manual does not order them). -/
def readOver (s : State) (x : Read) : State :=
  match x.rest with
  | p :: ps =>
    let y := { x with req := { x.req with va := p.va, len := p.len }, pa := p.pa, wait := true, beats := [], rest := ps, off := x.off + x.req.len }
    { s with reads := s.reads.map fun r => if r = x then y else r }
  | [] =>
    let s := invAnswered { s with reads := s.reads.filter fun r => r != x } true x.bay x.tag
    match s.flightOf x.flight with
    | none => s
    | some f =>
      if !partLive f x.req.part then s
      else s.setF (drainSlots s { f with slots := f.slots ++ [{ part := x.req.part, tag := x.tag, n := x.req.n }] })

/-! ### The staging window of an MCAST (R199) -/

/-- Bytes of an MCAST's stream, and how many of them a receiver has taken: a local one by its writes, a remote one by its flits
(R199). -/
def streamBytes (f : Flight) : Nat := ceilDiv ((eSrc f.raw).total * eSrcW f.raw) 8
def rcvTaken (f : Flight) (x : Xfer) : Nat :=
  if x.loc then ((f.wtodo.filter (·.rcv == x.idx)).map fun w => w.elem * eDstW f.raw / 8).foldl min (f.seq * eDstW f.raw / 8) else x.sent

/-- The first byte of an MCAST's stream past its staging window, 64 KiB beyond what the slowest receiver has taken (R199). -/
def windowEnd (f : Flight) : Nat :=
  if f.stage = .first then 65536
  else ((f.xfers.filter fun x => !x.detached).map (rcvTaken f)).foldl min (streamBytes f) + 65536

/-- Whether a read's bytes have a place in the loft: always but for an MCAST's source, which is read as its staging window moves on (R199,
R232). -/
def readInWindow (f : Flight) (r : RdReq) : Bool :=
  f.rx.isSome || opOf f.raw != some .mcast || r.side != .source || decide (r.elem * eSrcW f.raw + 8 * r.len ≤ 8 * windowEnd f)

/-! ### Reads leave -/

/-- Whether a port takes a read now: it overlaps no granule that another sequence locks, and a locked one finds a free lock
(R268, R411). -/
def readOpen (s : State) (x : Read) : Bool :=
  !lockedOut s x.flight x.pa x.req.len
  && (!x.req.lock || (lockRoom s x.bay [x.pa / 256] && !orderHeld s x.pa x.req.len))

/-- A port grants a locked read: its granule is locked (R268). -/
def takeLock (s : State) (x : Read) : State :=
  if x.req.lock then
    { s with locks := s.locks ++ [{ bay := x.bay, flight := x.flight, part := x.req.part, granule := x.pa / 256, va := x.req.va / 256 }] }
  else s

/-- What a part asks its bay's issue arbiter for: a port request that waits for the mesh port, else its first read that has its translation,
while it has credit and a staging place (R199, R232, R245); with the read that it is, when new. A read goes ahead of earlier ones that wait
for their translations only while it leaves each of them an entry, without which they could never issue (DESIGN CHOICE, log 43). -/
def readAsk (s : State) (f : Flight) (i : Nat) : Option (Read × Option RdReq) :=
  let b := f.bayOf i
  if !mayIssue s f i then none
  else
    match s.reads.find? fun r => r.wait && r.flight == f.id && r.req.part == i && (decodePa s r.pa).isNone with
    | some x => some (x, none)
    | none =>
      if readCredit s f i = 0 then none
      else
        match freeTag (trkHeld s b) with
        | none => none
        | some tag =>
          (f.todo.filter fun r => r.part == i && readInWindow f r).zipIdx.findSome? fun (r, k) =>
            match if k < readCredit s f i then portPieces s b r.va r.len else none with
            | some (p :: ps) =>
              some ({ bay := b, tag, flight := f.id, req := { r with va := p.va, len := p.len }, pa := p.pa, rest := ps }, some r)
            | _ => none

/-- Whether a bay's issue arbiter finds a read eligible: one for a stack port waits for its lock there. -/
def readEligible (s : State) (x : Read) : Bool := (decodePa s x.pa).isSome || readOpen s x

/-- The issue arbiter grants part i of a flight a read: it goes out on the mesh port, or to its stack port's arbiter. DEDUCED, log 19. -/
def readGrant (s : State) (id i : Nat) : State :=
  match s.flightOf id with
  | none => s
  | some f =>
    match readAsk s f i with
    | none => s
    | some (x, r) =>
      if !readEligible s x then s
      else
        let s := match r with
          | none => { s with reads := s.reads.filter fun z => z != x }
          | some r =>
            let s := touchPages s x.bay ({ va := x.req.va, len := x.req.len, pa := x.pa } :: x.rest)
            (s.modB x.bay fun y => { y with rdCnt := y.rdCnt + 1 }).setF { f with todo := f.todo.erase r }
        match decodePa s x.pa with
        | some _ => { s with reads := s.reads ++ [{ x with wait := true }] }
        | none => takeLock { s with reads := s.reads ++ [{ x with wait := false }] } x

/-- Whether every part of a side's reads is done: nothing to issue, nothing outstanding. -/
def readsDone (s : State) (f : Flight) : Bool := f.todo.isEmpty && !s.reads.any (·.flight == f.id)

/-- The beats of granary lines that bytes at a port-local address lie in: line, beat, offset in the bytes, length (R255, R257). -/
def beatParts (lpa len : Nat) : List (Nat × Nat × Nat × Nat) :=
  let n := min len (256 - lpa % 256)
  let second := lpa + n
  (lpa / 512, lpa % 512 / 256, 0, n) :: (if n < len then [(second / 512, second % 512 / 256, n, len - n)] else [])

/-- Lines of a slice that bytes at a port-local address miss and no outstanding fill brings (R256). -/
def newFills (s : State) (slice lpa len : Nat) : List Nat :=
  ((beatParts lpa len).map (·.1)).eraseDups.filter fun l => (lineOf s slice l).isNone && (fillOf s slice l).isNone

/-- Whether a slice has room for the fills a read needs (R256). -/
def fillRoom (s : State) (slice lpa len : Nat) : Bool :=
  decide ((s.gran.fills.filter (·.slice == slice)).length + (newFills s slice lpa len).length ≤ 256)

/-- Starts a fill under the least free slot number (R256, R416). -/
def startFill (s : State) (slice owner : Nat) (lock : Bool) (line : Nat) : State :=
  let used := (s.gran.fills.filter (·.slice == slice)).map (·.slot)
  let slot := ((List.range 256).find? fun i => !used.contains i).getD 0
  { s with gran.fills := s.gran.fills ++ [{ slice, line, owner, slot, lock }]
           gran.missCnt := s.gran.missCnt + 1 }

/-- Bytes of a read that a line holds land (R255). -/
def landHit (s : State) (slice : Nat) (x : Read) (lpa : Nat) (p : Nat × Nat × Nat × Nat) : State :=
  match lineOf s slice p.1 with
  | none => s
  | some l =>
    let o := (lpa + p.2.2.1) % 512
    let data := sliceBytes l.data o p.2.2.2
    landLock (landPart (lineTouch s l) x p.2.2.1 data (linePsn l.psn o p.2.2.2) false) x data

/-- A stack port grants a read: what its lines hold lands at once, and for the rest it waits for fills, its own or those of
others (R255, R256). -/
def stackRead (s : State) (slice lpa : Nat) (x : Read) : State :=
  let ps := beatParts lpa x.req.len
  let hits := ps.filter fun p => (lineOf s slice p.1).isSome
  let wants := (ps.filter fun p => (lineOf s slice p.1).isNone).map fun p => (slice, p.1, p.2.1)
  let fills := newFills s slice lpa x.req.len
  let owner := match s.flightOf x.flight with | some f => f.q | none => 0
  let y := { x with wait := false, beats := wants }
  let s := takeLock { s with reads := s.reads.map fun r => if r = x then y else r } x
  let s := each s hits fun s p => landHit s slice x lpa p
  let s := each s fills fun s l => startFill s slice owner x.req.lock l
  let s := if fills.isEmpty then { s with gran.hitCnt := s.gran.hitCnt + 1 } else s
  if wants.isEmpty then readOver s y else s

/-! ### Writes leave -/

/-- Whether an unretired READS fence of its queue stands before an entry (R238, R344). DESIGN CHOICE, log 23. -/
def fencedWrites (s : State) (f : Flight) : Bool :=
  f.rx.isNone &&
  ((s.getQ f.q).win.takeWhile fun x => x.pos != f.pos).any fun x => x.st == .dispatched && opOf x.raw == some .fence

/-- 256-byte granules of a destination write's blocks that carry the poison bit (R122, R252). -/
def poisonedGranules (va : Nat) (psn : BitVec 5) : List Nat :=
  ((List.range 5).filter fun j => psn.getLsbD j).map fun j => (va / 64 + j) / 4

/-- Notes a write that has been issued: its poisoned granules, each once, and that its MCAST receiver has taken data. -/
def noteIssued (g : Nat) (f : Flight) (w : WrReq) : Flight :=
  if w.side = .dest then
    { f with psnGran := (poisonedGranules w.va w.psn).foldl (fun l x => if l.contains x then l else l ++ [x]) f.psnGran
             xfers := f.xfers.map fun x => if x.loc && x.idx == w.rcv then { x with lastAt := g } else x }
  else f

/-- Whether a write's bytes are staged: always but for an MCAST's data (R199). -/
def inWindow (f : Flight) (w : WrReq) : Bool :=
  f.rx.isSome || opOf f.raw != some .mcast || w.side != .dest
    || decide (w.elem * eDstW f.raw + 8 * w.data.length ≤ 8 * windowEnd f)

/-- Whether a locked write still waits for its locked reads (R267). -/
def lockPending (s : State) (f : Flight) (w : WrReq) : Bool :=
  let gs := granulesOf w.va w.data.length
  w.lock && ((f.todo.any fun r => r.lock && gs.contains (r.va / 256))
    || s.reads.any fun r => r.flight == f.id && r.req.lock && gs.contains (r.req.va / 256))

/-- Whether a write is the last one of its locked sequence in each granule (R268). -/
def lockEnds (f : Flight) (w : WrReq) : Bool :=
  w.lock && (match (f.wtodo.filter fun x => x.lock && x.va / 256 == w.va / 256).getLast? with | some x => x == w | none => true)

/-- The part of a write that a port request carries (R247, R408). -/
def pieceWrite (w : WrReq) (p : Piece) : WrReq :=
  { w with va := p.va, data := sliceBytes w.data (p.va - w.va) p.len
           psn := BitVec.ofNat 5 (w.psn.toNat >>> (p.va / 64 - w.va / 64)) &&& onesPsn (blocksOf p.va p.len) }

/-- Write slots that a stack sub-channel holds (R416). -/
def slotsHeld (s : State) (slice chan : Nat) : List Nat :=
  (s.writes.filter fun w => match decodePa s w.pa with | some (p, lpa) => p == slice && lpaChan lpa == chan | none => false).filterMap (·.slot)

/-- The least free write slot of a sub-channel (R416). -/
def freeSlot (s : State) (slice chan : Nat) : Option Nat :=
  let held := slotsHeld s slice chan
  (List.range 256).find? fun i => !held.contains i

/-- Whether a port takes a write now (R268); a stack port needs a free slot too (R416). -/
def writeOpen (s : State) (x : Write) : Bool :=
  !lockedOut s x.flight x.pa x.req.data.length
  && (match decodePa s x.pa with | some (p, lpa) => (freeSlot s p (lpaChan lpa)).isSome | none => true)

/-- A port accepts a write that ends a locked sequence: its lock is released (R268). -/
def dropLock (s : State) (x : Write) : State :=
  if x.req.lock then
    { s with locks := s.locks.filter fun l => !(l.flight == x.flight && (granulesOf x.pa x.req.data.length).contains l.granule) }
  else s

/-- What a part asks its bay's issue arbiter for among writes: a port request that waits for the mesh port, else its first write
that no fence, no lock of its own and no staging window holds and that has its translation, while it has credit (R199, R231, R238,
R245). -/
def writeAsk (s : State) (f : Flight) (i : Nat) : Option (Write × Option WrReq) :=
  let b := f.bayOf i
  if !mayIssue s f i then none
  else
    match s.writes.find? fun r => r.wait && r.flight == f.id && r.req.part == i && (decodePa s r.pa).isNone with
    | some x => some (x, none)
    | none =>
      if fencedWrites s f || writeCredit s f i == 0 then none
      else
        match freeTag (tagHeld s b) with
        | none => none
        | some tag =>
          (f.wtodo.filter fun w => w.part == i && !lockPending s f w && inWindow f w).findSome? fun w =>
            match portPieces s b w.va w.data.length with
            | some (p :: ps) =>
              let w' := { w with lock := lockEnds f w }
              some ({ bay := b, tag, flight := f.id, req := pieceWrite w' p, pa := p.pa
                      rest := ps.map fun p => (pieceWrite w' p, p.pa) }, some w)
            | _ => none

/-- Whether a bay's issue arbiter finds a write eligible: one for a stack port waits there. -/
def writeEligible (s : State) (x : Write) : Bool := (decodePa s x.pa).isSome || writeOpen s x

/-- The issue arbiter grants part i of a flight a write: it goes out on the mesh port, or to its stack port's arbiter. DEDUCED, log 19. -/
def writeGrant (s : State) (id i : Nat) : State :=
  match s.flightOf id with
  | none => s
  | some f =>
    match writeAsk s f i with
    | none => s
    | some (x, w) =>
      if !writeEligible s x then s
      else
        let s := match w with
          | none => { s with writes := s.writes.filter fun z => z != x }
          | some w =>
            let s := touchPages s x.bay ({ va := x.req.va, len := x.req.data.length, pa := x.pa }
              :: x.rest.map fun r => { va := r.1.va, len := r.1.data.length, pa := r.2 })
            (s.modB x.bay fun y => { y with wrCnt := y.wrCnt + 1 }).setF
              { noteIssued s.clk.gclk f w with wtodo := f.wtodo.erase w }
        match decodePa s x.pa with
        | some _ => { s with writes := s.writes ++ [{ x with wait := true }] }
        | none => dropLock { s with writes := s.writes ++ [{ x with wait := false }] } x

/-- A stack port grants a write: it passes through the granary under a slot of its sub-channel (R258, R416). -/
def stackWrite (s : State) (slice lpa : Nat) (x : Write) : State :=
  let y := { x with wait := false, slot := freeSlot s slice (lpaChan lpa) }
  let s := granWrite { s with writes := s.writes.map fun r => if r = x then y else r } x.pa x.req.data x.req.psn
  dropLock s x

/-- A write's port request has been answered: the next one of its request waits for its port, or the request is over (R247). DESIGN
CHOICE, log 45. -/
def writeOver (s : State) (x : Write) : State :=
  match x.rest with
  | (w, pa) :: ps =>
    let y := { x with req := w, pa, wait := true, slot := none, rest := ps, off := x.off + x.req.data.length }
    { s with writes := s.writes.map fun r => if r = x then y else r }
  | [] => invAnswered { s with writes := s.writes.filter fun r => r != x } false x.bay x.tag

/-! ### Rounds (R261, Table 7.5) -/

/-- The parts that hold the stream contexts of a bay: context, flight, part, by context number. -/
def ctxParts (s : State) (b : Nat) : List (Nat × Flight × Nat) :=
  (List.range 128).filterMap fun c =>
    s.flights.findSome? fun f =>
      (f.parts.zipIdx.find? fun (p, _) => p.bay == b && p.ctx == some c && !p.gone).map fun (_, i) => (c, f, i)

/-- A round of a bay's issue arbiter for reads, with k of its four grants left. -/
def readRound (s : State) (b k : Nat) : State :=
  let ps := ctxParts s b
  let (won, a) := arbRound s.cfg.grantHold k (s.getB b).rdArb
    (ps.filterMap fun (c, f, i) => (readAsk s f i).map fun x => f.input s c (readEligible s x.1))
  each (s.modB b fun y => { y with rdArb := a }) won fun s c =>
    match ps.find? (·.1 == c) with | some (_, f, i) => readGrant s f.id i | none => s

/-- A round of a bay's issue arbiter for writes. -/
def writeRound (s : State) (b k : Nat) : State :=
  let ps := ctxParts s b
  let (won, a) := arbRound s.cfg.grantHold k (s.getB b).wrArb
    (ps.filterMap fun (c, f, i) => (writeAsk s f i).map fun x => f.input s c (writeEligible s x.1))
  each (s.modB b fun y => { y with wrArb := a }) won fun s c =>
    match ps.find? (·.1 == c) with | some (_, f, i) => writeGrant s f.id i | none => s

/-- The parts on a bay that hold no stream context and issue all the same: an MCAST's list read, a winnow record (DESIGN CHOICE,
log 12). -/
def freeParts (s : State) (b : Nat) : List (Nat × Nat) :=
  s.flights.flatMap fun f => (f.parts.zipIdx.filter fun (p, _) => p.ctx == some 128 && p.bay == b).map fun (_, i) => (f.id, i)

/-- Grants to such parts, in the order of `ps`, as many of n as they ask for: the state, and how many grants are left. `ask` says whether
a part asks for one that its port may take, `grant` grants it. -/
def freeGrants (ask : State → Flight → Nat → Bool) (grant : State → Nat → Nat → State) (ps : List (Nat × Nat)) : Nat → State → State × Nat
  | 0, s => (s, 0)
  | n + 1, s =>
    match ps.find? fun x => match s.flightOf x.1 with | some f => ask s f x.2 | none => false with
    | some (id, i) => freeGrants ask grant ps n (grant s id i)
    | none => (s, n + 1)

/-- A bay's rounds of one GCLK: none while an emergency requester holds the arbiter (R264). What parts without a stream context issue
counts among the four grants (R131; DESIGN CHOICE, log 12). -/
def issueRounds (s : State) (b : Nat) : State :=
  if (s.getB b).emerg || s.dbg.busy then s
  else
    let ps := freeParts s b
    let (s, n) := freeGrants (fun s f i => match readAsk s f i with | some x => readEligible s x.1 | none => false) readGrant ps 4 s
    let s := readRound s b n
    let (s, n) := freeGrants (fun s f i => match writeAsk s f i with | some x => writeEligible s x.1 | none => false) writeGrant ps 4 s
    writeRound s b n

/-- The read that a bay asks a stack port for: the first one that may go, else the first, which then waits on a lock or a
fill (DESIGN CHOICE, log 35). -/
def stackReadAsk (s : State) (slice b : Nat) : Option (Read × Nat × Bool) :=
  let l := s.reads.filterMap fun r =>
    if r.wait && r.bay == b then
      match decodePa s r.pa with
      | some (p, lpa) => if p = slice then some (r, lpa, readOpen s r && fillRoom s slice lpa r.req.len) else none
      | none => none
    else none
  match l.find? (·.2.2) with | some x => some x | none => l.head?

/-- The write that a bay asks a stack port for. -/
def stackWriteAsk (s : State) (slice b : Nat) : Option (Write × Nat × Bool) :=
  let l := s.writes.filterMap fun r =>
    if r.wait && r.bay == b then
      match decodePa s r.pa with
      | some (p, lpa) => if p = slice then some (r, lpa, writeOpen s r) else none
      | none => none
    else none
  match l.find? (·.2.2) with | some x => some x | none => l.head?

/-- A bay as an input of a stack port's arbiter: the class of the stream that issued its request (R262). -/
def stackInput (s : State) (b id : Nat) (eligible : Bool) : ArbReq :=
  match s.flightOf id with | some f => f.input s b eligible | none => { i := b, base := 0, eligible }

/-- Bays that are not masked (R266). -/
def arbBays (s : State) : List Nat := (List.range s.cfg.bays).filter fun b => bayAwake (s.getB b)

/-- A stack port's round of one PCLK: 16 reads and 16 writes, each bay one of each (Table 7.5). -/
def stackRound (s : State) (slice : Nat) : State :=
  let bays := (arbBays s).filter fun b => s.reads.any (fun r => r.wait && r.bay == b) || s.writes.any fun r => r.wait && r.bay == b
  let arb := s.gran.arb.getD {} slice
  let (wonR, ar) := arbRound s.cfg.grantHold 16 arb.rd
    (bays.filterMap fun b => (stackReadAsk s slice b).map fun x => stackInput s b x.1.flight x.2.2)
  let (wonW, aw) := arbRound s.cfg.grantHold 16 arb.wr
    (bays.filterMap fun b => (stackWriteAsk s slice b).map fun x => stackInput s b x.1.flight x.2.2)
  let new : StkArb := { rd := ar, wr := aw }
  let s := if new = arb then s else { s with gran.arb := s.gran.arb.put slice new }
  let s := each s wonR fun s b => match stackReadAsk s slice b with | some (x, lpa, true) => stackRead s slice lpa x | _ => s
  each s wonW fun s b => match stackWriteAsk s slice b with | some (x, lpa, true) => stackWrite s slice lpa x | _ => s

/-- Whether a bay's issue arbiter has anything to decide or to forget: a part there, or an input with a loss or a grant. -/
def arbBusy (s : State) (b : Nat) : Bool :=
  !(s.getB b).ctxs.isEmpty || !(s.getB b).rdArb.isEmpty || !(s.getB b).wrArb.isEmpty || !(freeParts s b).isEmpty

/-- The rounds of one GCLK: of every bay's issue arbiter, and of every stack port in both of its PCLK (Table 7.5); the debug access path
holds the stack ports too (R264). In the safe state nothing requests (R390), so that every input's loss and grant end (R261, R265). -/
def issuePass (s : State) : State :=
  let s := each s ((List.range s.cfg.bays).filter (arbBusy s)) issueRounds
  if s.dbg.busy then s
  else
    let ports := List.range s.cfg.stackPorts
    each (each s ports stackRound) ports stackRound

/-! ### Page faults (R246, R249) -/

/-- Cuts a read at the edges of a 4 KiB page; the flag says which piece lies in it. `w` is the width of the side's elements
and `k` the stream elements that each feeds. -/
def readOnPage (w k page : Nat) (r : RdReq) : List (RdReq × Bool) :=
  let cut (lo hi : Nat) (x : Bool) : List (RdReq × Bool) :=
    if lo < hi then [({ r with va := lo, len := hi - lo, ord := r.ord + 8 * (lo - r.va) / w
                               elem := r.elem + 8 * (lo - r.va) / w * k }, x)] else []
  let e := r.va + r.len
  cut r.va (min e page) false ++ cut (max r.va page) (min e (page + 4096)) true ++ cut (max r.va (page + 4096)) e false

/-- The same for a write. -/
def writeOnPage (w k page : Nat) (r : WrReq) : List (WrReq × Bool) :=
  let cut (lo hi : Nat) (x : Bool) : List (WrReq × Bool) :=
    if lo < hi then
      [({ r with va := lo, data := sliceBytes r.data (lo - r.va) (hi - lo), ord := r.ord + 8 * (lo - r.va) / w
                 psn := BitVec.ofNat 5 (r.psn.toNat >>> (lo / 64 - r.va / 64)) &&& onesPsn (blocksOf lo (hi - lo))
                 elem := r.elem + 8 * (lo - r.va) / w * k }, x)] else []
  let e := r.va + r.data.length
  cut r.va (min e page) false ++ cut (max r.va page) (min e (page + 4096)) true ++ cut (max r.va (page + 4096)) e false

/-- Whether a read or a write of a flight asks for its translation now: what fence, lock or credit holds it back has not asked
(R245, R246). DEDUCED, log 37. -/
def readAsks (s : State) (f : Flight) (r : RdReq) : Bool := mayIssue s f r.part && readInWindow f r && readCredit s f r.part != 0
def writeAsks (s : State) (f : Flight) (w : WrReq) : Bool :=
  mayIssue s f w.part && !fencedWrites s f && !lockPending s f w && inWindow f w && writeCredit s f w.part != 0

/-- Faults of the reads of a flight that wait for a page of bay b: zeros land, every block poisoned (R249). -/
def faultReads (s : State) (b page : Nat) (f : Flight) : Flight :=
  let (g, rest) := f.todo.foldl (fun (x : Flight × List RdReq) r =>
    if readAsks s f r ∧ f.bayOf r.part = b ∧ r.va < page + 4096 ∧ page < r.va + r.len then
      (readOnPage (sideWidth f r.side) (sideFeeds f r.side) page r).foldl (fun (x : Flight × List RdReq) (p : RdReq × Bool) =>
        if p.2 then
          (flightFault (landIn x.1 p.1.side p.1.grp p.1.va (List.replicate p.1.len 0#8) (onesPsn (blocksOf p.1.va p.1.len)) p.1.elem)
             { src := 3, side := p.1.side, ord := p.1.ord, detail := p.1.va, len := p.1.len, bay := b } p.1.elem, x.2)
        else (x.1, p.1 :: x.2)) x
    else (x.1, r :: x.2)) (f, [])
  { g with todo := rest.reverse }

/-- The elements that a destination write request holds: the first and one past the last. -/
def writeSpan (d : Shape) (w : Nat) (r : WrReq) : Nat × Nat :=
  let n := ceilDiv (8 * r.data.length) (max 1 w)
  (r.elem, if wholeBytes w d.run = 0 then min (r.elem + n) ((r.elem / max 1 d.run + 1) * d.run) else r.elem + n)

/-- Elements of a CONTRACT that a destination write would have held are not written: they do not count (R249, Table 5.8). -/
def unwritten (w : Nat) (f : Flight) (r : WrReq) : Flight :=
  if opOf f.raw = some .contract ∧ r.side = .dest then
    let n := (writeSpan (eDst f.raw) w r).2 - r.elem
    let lost := ((f.sound.drop r.elem).take n).filter id
    { f with elem := f.elem - lost.length
             sound := f.sound.zipIdx.map fun (x, i) => x && !(decide (r.elem ≤ i) && decide (i < r.elem + n)) }
  else f

/-- Faults of the writes of a flight that wait for a page of bay b: nothing is written (R249). A lock that such a write was to end stays
held (DESIGN CHOICE, log 46: R268 ends it with the write's acceptance, and the manual says nothing of a write that is never made). -/
def faultWrites (s : State) (b page : Nat) (f : Flight) : Flight :=
  let (g, rest) := f.wtodo.foldl (fun (x : Flight × List WrReq) r =>
    if writeAsks s f r ∧ f.bayOf r.part = b ∧ r.va < page + 4096 ∧ page < r.va + r.data.length then
      (writeOnPage (sideWidth f r.side) (sideFeeds f r.side) page r).foldl (fun (x : Flight × List WrReq) (p : WrReq × Bool) =>
        if p.2 then
          (unwritten (sideWidth f r.side)
             (flightFault x.1 { src := if f.stage == .recording then 1 else 3, side := p.1.side, ord := p.1.ord, detail := p.1.va
                                len := p.1.data.length, bay := b } p.1.elem) p.1, x.2)
        else (x.1, p.1 :: x.2)) x
    else (x.1, r :: x.2)) (f, [])
  { g with wtodo := rest.reverse }

/-- Whether some request waits for a 4 KiB page of bay b (R245). -/
def waitsForPage (s : State) (b page : Nat) : Bool :=
  s.flights.any fun f =>
    (f.todo.any fun r => readAsks s f r && f.bayOf r.part == b && missPage s b r.va r.len == some page)
    || (f.wtodo.any fun w => writeAsks s f w && f.bayOf w.part == b && missPage s b w.va w.data.length == some page)

/-! ### Released locks (R269) -/

/-- The granules of released locks whose reads have returned are written back, poisoned, while their bay has a free write tag
and their stack port a free slot (R269). -/
def writeBacks (s : State) : State :=
  each s (s.owed.filter (·.data.isSome)) fun s l =>
    let pa := 256 * l.granule
    let slot := match decodePa s pa with | some (p, lpa) => freeSlot s p (lpaChan lpa) | none => none
    match freeTag (tagHeld s l.bay) with
    | none => s
    | some tag =>
      if (decodePa s pa).isSome && slot.isNone then s
      else
        let data := l.data.getD []
        let s := granWrite s pa data 15#5
        { s with owed := s.owed.filter (· != l)
                 writes := s.writes ++ [{ bay := l.bay, tag, flight := l.flight, pa, slot
                                          req := { side := .other, ord := 0, elem := 0, part := l.part, va := 256 * l.va, data
                                                   psn := 15#5, lock := true } }] }

/-- The requests of a part that no port has accepted are withdrawn (R270). -/
def withdrawPart (s : State) (id i : Nat) : State :=
  let rd (r : Read) : Bool := r.flight == id && r.req.part == i
  let wr (w : Write) : Bool := w.flight == id && w.req.part == i
  let gone := s.reads.filter fun r => r.wait && rd r
  let goneW := s.writes.filter fun w => w.wait && wr w
  let s := { s with reads := (s.reads.filter fun r => !(r.wait && rd r)).map fun r => if rd r then { r with rest := [] } else r
                    writes := (s.writes.filter fun w => !(w.wait && wr w)).map fun w => if wr w then { w with rest := [] } else w }
  each (each s gone fun s r => invAnswered s true r.bay r.tag) goneW fun s w => invAnswered s false w.bay w.tag

end Sys2Proof.Machine
end

