-- ==== Sys2Proof/Machine/Flits.lean ====
section
/-!
DEFINITION. Flits.lean: the bytes of a flit (R168 to R172), the payloads of OPEN and HELLO (R174, R175), and the waiting
lists of a port's virtual channels.
-/
namespace Sys2Proof.Machine

/-- Header bits 127:32 of a flit as a number (Table 6.3). -/
def flitHeader (f : Flit) : Nat :=
  f.kind % 16 + (f.vc % 4) * 2 ^ 4 + (f.seq % 4096) * 2 ^ 6 + (f.ack % 4096) * 2 ^ 18 + b2n f.up * 2 ^ 30 + b2n f.rsv * 2 ^ 31
  + (f.crd.getD 0 0 % 256) * 2 ^ 32 + (f.crd.getD 1 0 % 256) * 2 ^ 40 + (f.crd.getD 2 0 % 256) * 2 ^ 48
  + (f.crd.getD 3 0 % 256) * 2 ^ 56 + (f.xid % 65536) * 2 ^ 64 + b2n f.last * 2 ^ 80 + f.pmask.toNat * 2 ^ 81

/-- Flit bytes 4 to 255. -/
def flitBody (f : Flit) : List Byte := leBytes (flitHeader f) 12 ++ f.payload

/-- The 256 bytes of a flit, its CRC first (R169). -/
def flitBytes (f : Flit) : List Byte := leBytes (crc32 (flitBody f)) 4 ++ flitBody f

/-- Reads a flit from its header number and payload. -/
def flitOf (h : Nat) (payload : List Byte) : Flit :=
  { kind := bits h 0 4, vc := bits h 4 2, seq := bits h 6 12, ack := bits h 18 12, up := bitAt h 30, rsv := bitAt h 31
    crd := [bits h 32 8, bits h 40 8, bits h 48 8, bits h 56 8], xid := bits h 64 16, last := bitAt h 80
    pmask := BitVec.ofNat 15 (bits h 81 15), payload }

/-- Reads a flit from its bytes: none when its length or its CRC is wrong (R168, R169). -/
def parseFlit (l : List Byte) : Option Flit :=
  if l.length = 256 ∧ leNat (l.take 4) = crc32 (l.drop 4) then some (flitOf (leNat ((l.drop 4).take 12)) (l.drop 16))
  else none

/-- Payload bytes padded with zeros to 240. -/
def padPayload (l : List Byte) : List Byte := sliceBytes l 0 240

/-- A flit to be sent: the header fields that the port fills in when it sends are left zero. -/
def mkFlit (kind vc xid : Nat) (payload : List Byte) (last : Bool := false) (pmask : BitVec 15 := 0#15) : Flit :=
  { kind, vc, seq := 0, ack := 0, up := true, rsv := false, crd := [0, 0, 0, 0], xid, last, pmask
    payload := padPayload payload }

/-- Kinds of Table 6.4 that take seq and credit. -/
def isVcKind (k : Nat) : Bool := k == 4 || k == 5 || k == 6 || k == 7

/-- n payload bytes from byte i, as a number. -/
def payNat (f : Flit) (i n : Nat) : Nat := leNat (sliceBytes f.payload i n)

/-- Why a good-CRC flit is bad: the sub code of the link protocol note (R171, R182, Table 11.4); `strays` when it is a DATA flit
whose channel is not its OPEN's. -/
def flitSub (strays : Bool) (f : Flit) : Option Nat :=
  let zeroFrom (n : Nat) : Bool := (f.payload.drop n).all (· == 0#8)
  if !(f.kind == 0 || f.kind == 1 || f.kind == 2 || isVcKind f.kind) then some 0
  else if strays || (if f.kind = 4 ∨ f.kind = 5 then !(f.vc == 0 || f.vc == 2) else f.vc != (if f.kind = 6 then 1 else if f.kind = 7 then 3 else 0))
    then some 1
  else if f.rsv then some 2
  else if ((f.kind == 0 || f.kind == 2 || f.kind == 7) && !zeroFrom 0) || (f.kind == 1 && !zeroFrom 10) || (f.kind == 6 && !zeroFrom 1)
    then some 3
  else if f.kind == 1 && payNat f 8 1 != 1 then some 5
  else none

/-- The channel of the OPEN of a transfer that port n receives (R171): whatever its answer was. -/
def openVc (s : State) (n xid : Nat) : Option Nat := ((s.getP n).opens.find? fun x => x.1 == xid).map (·.2)

/-- A VC flit that is received in order opens its transfer, or is the last of it (R171). -/
def Port.noteOpen (p : Port) (f : Flit) : Port :=
  if f.kind = 4 then { p with opens := p.opens.put f.xid f.vc }
  else if f.kind = 7 ∨ (f.kind = 5 ∧ f.last = true) then { p with opens := p.opens.filter fun x => x.1 != f.xid }
  else p

/-- Whether a DATA flit's channel is not its OPEN's (R171, Table 6.4). -/
def straysVc (s : State) (n : Nat) (f : Flit) : Bool :=
  f.kind == 5 && (match openVc s n f.xid with | some v => v != f.vc | none => false)

/-- Why a good-CRC flit that port n receives is bad (R171). -/
def flitBad (s : State) (n : Nat) (f : Flit) : Option Nat := flitSub (straysVc s n f) f

/-- The payload of a PUT OPEN (Table 6.5). -/
def putOpen (src dst fmt : Nat) (rtally : Option Nat) (elems : Nat) (d : Shape) (wo : Nat) : List Byte :=
  let rt := match rtally with | some t => 0x8000 + t | none => 0
  leBytes src 2 ++ leBytes dst 2 ++ leBytes 1 1 ++ leBytes fmt 1 ++ leBytes rt 2 ++ leBytes elems 8 ++ leBytes d.base 8
  ++ leBytes d.run 4 ++ leBytes d.cnt1 4 ++ leBytes d.cnt2 4 ++ leBytes d.cnt3 4
  ++ leBytes (unsext 64 d.step1) 8 ++ leBytes (unsext 64 d.step2) 8 ++ leBytes (unsext 64 d.step3) 8 ++ leBytes wo 1

/-- The payload of a REDUCE OPEN (Table 6.5); `mark` is a format code, or 32 for raw. -/
def redOpen (src dst mark rid pcnt rede : Nat) (accExp : Int) : List Byte :=
  leBytes src 2 ++ leBytes dst 2 ++ leBytes 2 1 ++ leBytes (if mark = 32 then 0x80 else mark) 1 ++ leBytes 0 2
  ++ leBytes rede 8 ++ leBytes rid 2 ++ leBytes pcnt 2 ++ leBytes (unsext 16 accExp) 2

/-- The payload of a HELLO (Table 6.6, R188). -/
def helloPayload (self n incarn : Nat) : List Byte :=
  leBytes self 2 ++ leBytes n 1 ++ leBytes 0 1 ++ [160#8, 32#8, 160#8, 32#8] ++ leBytes 1 1 ++ leBytes incarn 1

/-- The DATA flits of an element string of w-bit elements (R172): payload bytes and poison chunks. -/
def dataFlits (vc xid w : Nat) (es : List Elem) : List Flit :=
  let bs := rowBytes w es
  let n := max 1 (ceilDiv bs.length 240)
  (List.range n).map fun k =>
    let part := (bs.drop (240 * k)).take 240
    let marks := (List.range 15).foldl (fun m c => m + (if ((part.drop (16 * c)).take 16).any (·.2) then 2 ^ c else 0)) 0
    mkFlit 5 vc xid (part.map Prod.fst) (k + 1 == n) (BitVec.ofNat 15 marks)

/-- Puts a flit on a port's waiting list of its channel. -/
def Port.push (p : Port) (f : Flit) : Port :=
  match f.vc with
  | 0 => { p with tx0 := p.tx0 ++ [f] }
  | 1 => { p with tx1 := p.tx1 ++ [f] }
  | 2 => { p with tx2 := p.tx2 ++ [f] }
  | _ => { p with tx3 := p.tx3 ++ [f] }

/-- The waiting list of a channel. -/
def Port.waiting (p : Port) (vc : Nat) : List Flit :=
  match vc with | 0 => p.tx0 | 1 => p.tx1 | 2 => p.tx2 | _ => p.tx3

/-- Drops the waiting OPEN and DATA flits of a transfer. -/
def Port.unqueue (p : Port) (xid : Nat) : Port :=
  { p with tx0 := p.tx0.filter (·.xid != xid), tx2 := p.tx2.filter (·.xid != xid) }

/-- Drops those of a sender's transfer and of its earlier ones that were answered BUSY. -/
def Port.withdraw (p : Port) (x : Xfer) : Port := (x.xid :: x.old).foldl Port.unqueue p

/-- Whether a transfer's OPEN still waits to be sent. -/
def Port.openWaits (p : Port) (xid : Nat) : Bool := (p.tx0 ++ p.tx2).any fun f => f.kind == 4 && f.xid == xid

/-- Send credit of a VC (R189). -/
def Port.credit (p : Port) (vc : Nat) : Nat := p.adv.getD vc 0 + p.seen.getD vc 0 - p.sent.getD vc 0

/-- Keeps, per channel, the GCLK since which flits wait without credit (R200, R218). -/
def Port.restall (g : Nat) (p : Port) : Port :=
  { p with stall := [0, 1, 2, 3].map fun vc =>
      if (p.waiting vc).isEmpty || p.credit vc != 0 then none
      else some (match p.stall.getD vc none with | some a => a | none => g) }

/-- Takes the next transfer number of a port. -/
def Port.takeXid (p : Port) : Nat × Port := (p.nextXid, { p with nextXid := (p.nextXid + 1) % 65536 })

/-- Ends one transfer of a sender: what still waits is dropped, and a CANCEL goes out on VC3 while the port is UP, when its OPEN has
been sent (R270) or `always` (R200). -/
def cancelXfer (s : State) (always : Bool) (x : Xfer) : State :=
  s.modP x.port fun p =>
    let sent := always || !p.openWaits x.xid
    let p := p.withdraw x
    (if sent && p.state == .up then p.push (mkFlit 7 3 x.xid []) else p).restall s.clk.gclk

/-- The RESP of a transfer (R176). -/
def sendResp (s : State) (n xid status : Nat) : State :=
  s.modP n fun p => if p.state == .up then (p.push (mkFlit 6 1 xid [BitVec.ofNat 8 status])).restall s.clk.gclk else p

end Sys2Proof.Machine
end

