-- ==== Sys2Proof/Machine/Front.lean ====
section
/-!
DEFINITION. Front.lean: the queue front end's shared operations (08): the window of entries from the head to the fetch
position, fetch checks, the crib's slots, error stops, retirement and the head, discards and aborts.
-/
namespace Sys2Proof.Machine

/-! ### The crib (R98 to R102) -/

/-- Entry i of crib slot n. -/
def cribEntry (s : State) (n i : Nat) : Nat := leNat (s.crib.mem.readN (512 * n + 2 * i) 2)

/-- Strictly rising finite binary16 values; −0 equals +0 (R100). -/
def risingFrom : List Nat → Bool
  | [] => true
  | [a] => valFinite (valueOf 1 a)
  | a :: b :: r =>
    valFinite (valueOf 1 a) && decide (valInt (valueOf 1 a) (-24) < valInt (valueOf 1 b) (-24)) && risingFrom (b :: r)

/-- The sorted bit of a slot for its first n entries (R100). -/
def cribSorted (s : State) (slot n : Nat) : Bool := risingFrom ((List.range n).map (cribEntry s slot))

/-- Whether a slot's state in the window is that of an outstanding entry (R101). -/
def slotOutstanding (x : Slot) : Bool := (x.st == .fetched || x.st == .dispatched)

/-- Whether an instruction has a part that has not given up its stream context: it holds one, or waits for one, not cut off (R101, R270,
R396). -/
def holdsCtx (f : Flight) : Bool := f.parts.any fun p => (match p.ctx with | some c => decide (c < 128) | none => !p.cut) && !p.gone

/-- Outstanding entries that name a crib slot (R101); an aborted one counts until its last part has given up its context. -/
def cribInflight (s : State) (slot : Nat) : Nat :=
  (s.qs.map fun (q, y) => (y.win.filter fun x =>
    eNamesSlot x.raw && eCbSlot x.raw == slot
    && (slotOutstanding x || (x.st == .aborted && (match s.flightAt q x.pos with | some f => holdsCtx f | none => false)))).length).sum

/-- Whether a slot is busy (R101). -/
def cribBusy (s : State) (slot : Nat) : Bool := decide (cribInflight s slot > 0) || s.crib.loading == some slot

/-! ### Front-end requests (R406, R413, R416, R419) -/

/-- The mesh port that front-end traffic belongs to (R413). -/
def feLane (bays : Nat) : FeUse → Nat
  | .index q | .entries q _ | .head q => q % bays
  | _ => 0

/-- The port that serves a request: a stack port, or its mesh port. -/
def FeReq.port (r : FeReq) : Bool × Nat := match r.stk with | some (p, _) => (true, p) | none => (false, r.lane)

/-- The least of a port's 16 request numbers that is free (R413). -/
def feTag (fe : List FeReq) (port : Bool × Nat) : Option Nat :=
  (List.range 16).find? fun n => !fe.any fun r => r.port == port && r.tag == n

/-- The pieces of a request: of up to 256 bytes, each served by one port (R406, R414). -/
def fePieces (s : State) (addr len : Nat) : List Piece :=
  ((cutRun len).map fun (o, n) => { va := addr + o, len := n, pa := addr + o }).flatMap (cutPorts s)

/-- The requests outstanding with the pieces of one more; none when a port that serves one of them already has 16. -/
def feAdd (s : State) (r : FeReq) : List Piece → List FeReq → Option (List FeReq)
  | [], fe => some fe
  | p :: ps, fe =>
    let r := { r with stk := decodePa s p.pa, addr := p.pa, len := p.len }
    match feTag fe r.port with
    | some tag => feAdd s { r with more := true } ps (fe ++ [{ r with tag }])
    | none => none

/-- Issues a front-end request, decoded as the stack registers stand now (R413 to R415); none while there is no room for it. -/
def feTry (s : State) (use : FeUse) (we : Bool) (addr len : Nat) : Option State :=
  (feAdd s { use, lane := feLane s.cfg.bays use, we, addr, len, due := s.feBy } (fePieces s addr len) s.fe).map fun fe => { s with fe }

/-- A command that issues a front-end request while `c` holds and a number is free for it. -/
def feAct (s : State) (c : Bool) (use : FeUse) (we : Bool) (addr len : Nat) (f : State → State) : Out :=
  match feTry s use we addr len with
  | some t => act s c fun _ => f t
  | none => .next s

/-- Takes the oldest request that `p` picks out of a list, with all its pieces. -/
def feErase (p : FeReq → Bool) : List FeReq → List FeReq
  | [] => []
  | r :: l => if p r then l.dropWhile (·.more) else r :: feErase p l

/-- A front-end request is answered, or its time has run out. -/
def feDone (s : State) (use : FeUse) (gone : Bool := false) : State :=
  { s with fe := feErase (fun r => r.gone == gone && r.use == use) s.fe }

/-- A discarded request whose time has run out is no longer outstanding (R415). -/
def feExpire (s : State) : State := { s with fe := s.fe.filter fun r => !(r.gone && s.feLate r.due) }

/-! ### Window -/

/-- Whether an entry before a position is being fetched, or is to be fetched again (R309). -/
def Queue.gapBefore (y : Queue) (pos : Nat) : Bool :=
  let d (p : Nat) : Nat := ringDist y.size y.h p
  y.fetches.any (fun f => decide (d f.pos < d pos)) || y.refetch.any fun f => decide (d f.1 < d pos)

/-- The oldest entry that is fetched and not dispatched; none while one before it is being fetched again. -/
def Queue.front (y : Queue) : Option Slot :=
  match y.win.find? fun x => x.st == .checking || x.st == .fetched || x.st == .link with
  | some x => if y.gapBefore x.pos then none else some x
  | none => none

/-- The front entry when it has passed its checks, may dispatch, and spells opcode `o`. -/
def frontIs (s : State) (q : Nat) (o : Op) : Option Slot :=
  let y := s.getQ q
  match y.front with
  | some x => if x.st == .fetched && opOf x.raw == some o && (y.state == .enabled || y.state == .error) && !s.held then some x else none
  | none => none

/-- Entries before a position in the window. -/
def Queue.before (y : Queue) (pos : Nat) : List Slot := y.win.takeWhile fun x => x.pos != pos

/-- Whether every entry before a position has retired. -/
def Queue.allRetiredBefore (y : Queue) (pos : Nat) : Bool := (y.before pos).all fun x => x.st == .retired

/-- Entries fetched and not dispatched, with those being fetched or to be fetched again (R286, R309, R350). -/
def Queue.buffered (y : Queue) : Nat :=
  (y.win.filter fun x => x.st == .checking || x.st == .fetched).length + (y.fetches.map (·.n)).sum + y.refetch.length

/-- Address of the entry after one (R278). -/
def Queue.nextAddr (y : Queue) (addr : Nat) : Nat :=
  if addr + 128 = y.ringBase + 128 * y.size then y.ringBase else addr + 128

/-- Address of the entry that follows a slot: a LINK's target, else the next place (R278). -/
def Queue.follow (y : Queue) (x : Slot) : Nat := if opOf x.raw = some .link then eTarget x.raw else y.nextAddr x.addr

/-- Notes when an entry reached the front (R342, R348, R349). -/
def Queue.noteFront (y : Queue) (g : Nat) : Queue :=
  match y.front with
  | some x => if x.frontAt.isNone then y.setSlot { x with frontAt := some g } else y
  | none => y

/-- Moves the head over retired entries (R301), noting that a head write is due (R302): an entry behind one that was discarded waits
for it. -/
def headOver (y : Queue) (g : Nat) : List Slot → Queue
  | [] => { y with win := [] }
  | x :: r =>
    if x.st = .retired ∧ x.pos = y.h then
      headOver { y with h := y.after x.pos 1, headAddr := y.follow x, headAt := some g
                        headDue := some (match y.headDue with | some a => a | none => g) } g r
    else { y with win := x :: r }

/-- A DRAINING queue whose work is done becomes DISABLED; when its last retirement moved h, with the answer to the head write (R298). -/
def settle (s : State) (q : Nat) : State :=
  let y := s.getQ q
  let busy := y.win.any (fun x => x.st == .dispatched) || s.flights.any fun f => f.rx.isNone && f.q == q
  if y.state = .draining ∧ !busy ∧ !y.pub then pulseOwner (s.setQ q { y with state := .disabled }) q 4
  else s

/-- An entry retires (R301). A head write that an earlier move of h asked for is still awaited when this one moves nothing (R298). -/
def retire (s : State) (q pos : Nat) : State :=
  let y := s.getQ q
  match y.slotAt pos with
  | none => s
  | some x =>
    let y := y.setSlot { x with st := .retired }
    let z := (headOver y s.clk.gclk y.win).noteFront s.clk.gclk
    settle (s.setQ q { z with pub := y.pub || z.h != y.h }) q

/-- A program-control entry dispatches and retires in one GCLK (R343). -/
def dispatchRetire (s : State) (q : Nat) (x : Slot) : State := retire s q x.pos

/-! ### Discards -/

/-- Drops a flight whose entry has not been dispatched, with its places in the bays' wait orders. -/
def dropWaiting (s : State) (q pos : Nat) : State :=
  match s.flightAt q pos with
  | none => s
  | some f =>
    { s.dropF f.id with bay := s.bay.map fun (b, y) => (b, { y with waits := y.waits.filter (·.1 != f.id) }) }

/-- Whether an entry is fetched and not dispatched. -/
def slotUndispatched (x : Slot) : Bool := x.st == .checking || x.st == .fetched || x.st == .link

/-- Discards the undispatched entries of a queue at the positions that `p` picks, and the fetches, made or to be made again, of those
that `pf` picks. -/
def discard (s : State) (q : Nat) (p pf : Nat → Bool) : State :=
  let y := s.getQ q
  let gone := y.win.filter fun x => slotUndispatched x && p x.pos
  let s := each s gone fun s x => dropWaiting s q x.pos
  let s := feDiscard s fun u => (y.fetches.filter fun x => pf x.pos).any fun x => u == .entries q x.pos
  s.setQ q { y with win := y.win.filter fun x => !(slotUndispatched x && p x.pos), fetches := y.fetches.filter fun x => !pf x.pos
                    refetch := y.refetch.filter fun x => !pf x.1 }

/-- Discards every fetched entry of a queue (R296). -/
def discardAll (s : State) (q : Nat) : State := discard s q (fun _ => true) (fun _ => true)

/-- A cause of Table 8.3 stops a queue at a position (R294). An entry that was to be fetched again is fetched no more, and those behind it
are discarded with it (DEDUCED, log 16). -/
def queueError (s : State) (q pos cause off : Nat) : State :=
  let y := s.getQ q
  let d (p : Nat) : Nat := ringDist y.size y.h p
  let m := y.refetch.foldl (fun m x => min m (d x.1)) (d pos)
  let s := discard s q (fun p => decide (d p ≥ m)) (fun p => decide (d p ≥ m))
  let y := s.getQ q
  let s := s.setQ q { y with state := .error, errIndex := pos, errCause := cause, errOff := off }
  raise s { src := 0x13, sub := cause, inst := some (q, pos), detail := off }

/-! ### Fetch checks (R293) -/

/-- What a fetch check finds. -/
inductive Verdict where
  | good
  | wait
  | bad (cause off : Nat)
  deriving DecidableEq, Repr

/-- Whether the check of an entry waits for its crib slot (R98, R102). -/
def cribWait (s : State) (e : Nat) : Bool := eNamesSlot e && (s.crib.stale || s.crib.loading == some (eCbSlot e))

/-- The codebook condition of Table 4.5: an encoding side that is an unsorted codebook. -/
def cribFault (s : State) (e : Nat) : List (Nat × Nat) :=
  chk (opOf e == some .pack && eNamesSlot e && fmtIsCb (eDstFmt e) && !cribSorted s (eCbSlot e) (cbEntries (eDstFmt e))) 5 118

/-- Whether an MCAST's receiver list is still to be read before its check can be decided: it decides unless a smaller cause, or a lower
byte of a bad field, is already found (R197, R341). DEDUCED, log 14. -/
def listAwaited (x : Slot) (found : Option (Nat × Nat)) : Bool :=
  opOf x.raw == some .mcast && x.list.isNone && !x.listBad && eMcCnt x.raw != 0 && decide (eMcCnt x.raw ≤ 16)
  && (match found with | some (c, o) => decide (c > 3) || (c == 3 && decide (o > 102)) | none => true)

/-- The fetch check of a slot. -/
def checkVerdict (s : State) (q : Nat) (x : Slot) : Verdict :=
  let list := if x.listBad then none else x.list
  let fs := entryFaults s.cfg.linkPorts s.lnk.self.toNat x.raw list
    ++ chk (opOf x.raw == some .link && decide ((s.getQ q).linkRun ≥ 64)) 7 0
  if cribWait s x.raw then .wait
  else
    let found := pickFault (fs ++ cribFault s x.raw)
    if listAwaited x found then .wait
    else match found with | some (c, o) => .bad c o | none => .good

/-- The list read of an MCAST at its check: a flight that holds the read, on bay q mod BAYS (R197). Stream context 128
stands for none. DESIGN CHOICE, log 12. -/
def listFlight (s : State) (q : Nat) (x : Slot) : Flight :=
  { id := 0, q, pos := x.pos, raw := x.raw
    parts := [{ bay := q % s.cfg.bays, ctx := some 128 }]
    todo := [{ side := .other, grp := 0, ord := 0, elem := 0, part := 0, va := eMcList x.raw, len := 16 * eMcCnt x.raw }] }

/-- Whether an entry is a send whose home is this engine (R339). -/
def sendsHere (s : State) (e : Nat) : Bool := opOf e == some .linkreduce && !eHome e && eRchip e == s.lnk.self.toNat

/-- A bay wakes toward Active (R445). -/
def bayLatency (p : Pwr) : Nat := match p with | .active => 0 | .idle => 28 | .nap => 2800 | .dormant => 84000
def wakeBay (s : State) (b : Nat) : State :=
  let y := s.getB b
  if y.pwr = .active ∨ y.waking.isSome then s
  else
    s.setB b { y with waking := some (s.clk.gclk + bayLatency y.pwr)
                      wakeCnt := if y.pwr = .nap ∨ y.pwr = .dormant then y.wakeCnt + 1 else y.wakeCnt }

/-- Whether an entry's deadline has passed by now (R274). DEDUCED, log 10. -/
def deadlinePassed (s : State) (x : Slot) : Bool :=
  (match opOf x.raw with | some o => !opIsControl o | none => false)
  && eDeadline x.raw != 0 && decide (s.tick.count.toNat ≥ x.tick + eDeadline x.raw)

/-- The lowest-numbered bay that holds a part of an instruction at this moment, or 0xFFFF (R275). -/
def lowestBay (f : Option Flight) : Nat :=
  match f with
  | none => 0xFFFF
  | some f => ((f.parts.filter fun p => p.ctx != some 128 && !p.gone).map (·.bay)).foldl min 0xFFFF

/-- Records a deadline miss (R275). -/
def missDeadline (s : State) (q : Nat) (x : Slot) : State :=
  let y := s.getQ q
  let s := s.setQ q (y.setSlot { x with missed := true })
  let f := s.flightAt q x.pos
  let s := match f with | some g => s.setF { g with missed := true } | none => s
  let s := raise s { src := 6, unit := lowestBay f, inst := some (q, x.pos), detail := x.tick + eDeadline x.raw }
  pulseOwner s q 1

/-- Whether some entry before a slot is still to come or holds a LINK to be taken. -/
def checkHeld (y : Queue) (x : Slot) : Bool := y.gapBefore x.pos || (y.before x.pos).any fun z => z.st == .link

/-- The fetcher takes an entry that is no LINK: a new count of LINKs in a row begins with it (R280). -/
def Queue.takes (y : Queue) (x : Slot) : Queue :=
  if x.taken then y else { y.setSlot { x with taken := true } with linkRun := 0 }

/-- Lays the n positions from `pos` out in memory from `addr` on: pushed entries there learn their address, the others are to be fetched
again. -/
def Queue.lay (y : Queue) : Nat → Nat → Nat → Queue
  | 0, _, addr => { y with fetchAddr := addr }
  | n + 1, pos, addr =>
    match y.slotAt pos with
    | some z => Queue.lay (y.setSlot { z with addr }) n (y.after pos 1) (y.follow { z with addr })
    | none => Queue.lay { y with refetch := y.refetch ++ [(pos, addr)] } n (y.after pos 1) (y.nextAddr addr)

/-- A LINK passes its check: it is cached (R306), and what was fetched behind it from the bytes that follow it is dropped (R278, R279),
but pushed entries that the queue has taken stay (R290). -/
def linkGood (s : State) (q : Nat) (x : Slot) : State :=
  let y := s.getQ q
  let d (p : Nat) : Nat := ringDist y.size y.h p
  let behind (p : Nat) : Bool := decide (d p > d x.pos)
  let pushed (p : Nat) : Bool := y.win.any fun z => z.pushed && z.pos == p && behind p
  let s := discard s q (fun p => behind p && !pushed p) behind
  let y := s.getQ q
  let n := y.after x.pos 1
  let y := { y.setSlot { x with st := .link } with cache := if y.cached then y.cache.put (x.pos % y.size) x.raw else y.cache }
  let y := if y.win.any (fun z => pushed z.pos) then y.lay (ringDist y.size n y.f) n (eTarget x.raw) else { y with f := n }
  s.setQ q (y.noteFront s.clk.gclk)

/-- Checks one slot of a queue that waits for its check (R293). -/
def checkSlot (s : State) (q pos : Nat) : State :=
  let y := s.getQ q
  match y.slotAt pos with
  | none => s
  | some x =>
    if x.st != .checking || checkHeld y x then s
    else
      match checkVerdict s q x with
      | .bad c o => queueError s q pos c o
      | .wait =>
        let s := s.setQ q (y.takes x)
        if opOf x.raw = some .mcast ∧ x.list.isNone ∧ !cribWait s x.raw then
          let s := wakeBay s (q % s.cfg.bays)
          match s.flightAt q pos with
          | some _ => s
          | none => s.addF (listFlight s q x)
        else s
      | .good =>
        if opOf x.raw = some .link then linkGood s q x
        else
          let y := y.takes x
          let y := { y with cache := if y.cached then y.cache.put (pos % y.size) x.raw else y.cache }
          s.setQ q ((y.setSlot { x with st := .fetched, local_ := sendsHere s x.raw, taken := true }).noteFront s.clk.gclk)

/-- Checks every slot of a queue that waits for its check, in ring order. -/
def recheck (s : State) (q : Nat) : State :=
  each s (((s.getQ q).win.filter fun x => x.st == .checking).map (·.pos)) fun s pos => checkSlot s q pos

/-- Rechecks every queue: after a codebook load or the recomputation of the sorted bits (R98, R102). -/
def recheckAll (s : State) : State := each s s.qs.keys recheck

/-- Entries come in at a position: each takes its place in the window, in ring order, to be checked. -/
def takeEntry (s : State) (q pos addr raw : Nat) (pushed : Bool := false) : State :=
  let y := s.getQ q
  let d (p : Nat) : Nat := ringDist y.size y.h p
  let x : Slot := { pos, addr, raw, st := .checking, tick := s.tick.count.toNat, at_ := s.clk.gclk, pushed }
  s.setQ q { y with win := (y.win.filter fun z => decide (d z.pos < d pos)) ++ [x] ++ y.win.filter fun z => decide (d z.pos > d pos) }

/-! ### Records of a flight's faults (R251, Tables 11.2 to 11.4) -/

/-- The number of a side (Table 11.4). -/
def sideNum (x : Side) : Nat :=
  match x with | .source => 0 | .dest => 1 | .index => 2 | .operand => 3 | .scale => 4 | .other => 5

/-- The walk indices of element n of a side, as 79:0 of a page-fault detail. -/
def walkDetail (s : Shape) (wo n : Nat) : Nat :=
  let (i1, i2, i3) := rowIdx s wo (n / max 1 s.run)
  n % max 1 s.run + i1 * 2 ^ 20 + i2 * 2 ^ 40 + i3 * 2 ^ 60

/-- The position part of a page-fault detail. -/
def faultPlace (f : Flight) (side : Side) (n : Nat) : Nat :=
  match side, f.rx with
  | .dest, some r => walkDetail r.shape r.walk n
  | .dest, none => walkDetail (eDst f.raw) (eWalk f.raw) n
  | .source, none => walkDetail (eSrc f.raw) 0 n
  | _, _ => n

/-- Distinct 256-byte granules of the faulting bytes. DESIGN CHOICE, log 23. -/
def granuleCount (l : List SideFault) : Nat := (l.flatMap fun x => granulesOf x.detail x.len).eraseDups.length

/-- The record of one kind on one side: the first request in order, the lowest bay. -/
def sideEvent (f : Flight) (src : Nat) (side : Side) : Option Ev :=
  match f.faults.filter fun x => x.src == src && x.side == side with
  | [] => none
  | a :: r =>
    if (f.faults.take f.recd).any fun x => x.src == src && x.side == side then none
    else
      let m := r.foldl (fun m x => if x.ord < m.ord ∨ (x.ord = m.ord ∧ x.off < m.off) then x else m) a
      some { src, sub := sideNum side, unit := r.foldl (fun u x => min u x.bay) a.bay
             inst := if f.rx.isSome then none else some (f.q, f.pos)
             detail := if src = 3 then faultPlace f side m.ord + min (granuleCount (a :: r)) (2 ^ 24 - 1) * 2 ^ 80 else m.detail }

/-- The records that a flight's faults come to, one of each kind for each side. -/
def faultEvents (f : Flight) : List Ev :=
  let sides : List Side := [.source, .dest, .index, .operand, .scale, .other]
  [1, 2, 3].flatMap fun src => sides.filterMap (sideEvent f src)

/-- Records a flight's faults; those recorded stay noted. -/
def recordFaults (s : State) (id : Nat) : State :=
  match s.flightOf id with
  | none => s
  | some f => raiseAll (s.setF { f with recd := f.faults.length }) (faultEvents f)

/-- Whether an instruction has been cut off whole with faults that are not recorded yet (R251). -/
def cutUnrecorded (f : Flight) : Bool := f.rx.isNone && f.cut && f.parts.all (·.cut) && decide (f.recd < f.faults.length)

/-- Records the faults of the instructions that this command has cut off, with its other events. -/
def recordCuts (s : State) (evs : List Ev) : State :=
  raiseAll { s with flights := s.flights.map fun f => if cutUnrecorded f then { f with recd := f.faults.length } else f }
    ((s.flights.filter cutUnrecorded).flatMap faultEvents ++ evs)

/-! ### Parts, locks and aborts (R269, R270) -/

/-- A part gives up its context and its loft (R270): as an input of the issue arbiter it requests nothing and holds nothing (R261,
R265). -/
def releasePart (s : State) (p : Part) : State :=
  match p.ctx with
  | some c =>
    if c < 128 then
      s.modB p.bay fun y => { y with ctxs := y.ctxs.erase c, loft := y.loft - p.loft, since := s.clk.gclk,
                                      rdArb := y.rdArb.filter (·.1 != c), wrArb := y.wrArb.filter (·.1 != c) }
    else s
  | none => s

/-- Whether an MCAST has handed its whole stream to its receivers (R199). -/
def mcFed (f : Flight) : Bool := f.rx.isSome || opOf f.raw != some .mcast || decide (f.seq ≥ (eSrc f.raw).total)

/-- Whether a part has nothing left to do or to wait for: its writes are answered, and unless it is cut off its reads and
results are done (R233, R270). -/
def partIdle (s : State) (f : Flight) (i : Nat) : Bool :=
  let p := f.parts.getD i { bay := 0 }
  !(s.writes.any fun w => w.flight == f.id && w.req.part == i)
  && (p.cut
      || ((f.stage == .writing || f.stage == .recording) && mcFed f && !(f.wtodo.any (·.part == i)) && !(f.todo.any (·.part == i))
          && f.xfers.all fun x => x.detached || x.result.isSome))

/-- Parts of a flight that have ended give up their contexts (R24, R270). -/
def endParts (s : State) (id : Nat) : State :=
  match s.flightOf id with
  | none => s
  | some f =>
    let done := (List.range f.parts.length).filter fun i =>
      let p := f.parts.getD i { bay := 0 }
      !p.gone && (p.ctx.isSome || p.cut) && partIdle s f i
    let s := each s done fun s i => releasePart s (f.parts.getD i { bay := 0 })
    s.setF { f with parts := f.parts.zipIdx.map fun (p, i) => if done.contains i then { p with gone := true } else p }

/-- Whether a flight writes a winnow record (R123): its win bit, unless it was cut off. -/
def wantsRecord (f : Flight) : Bool := f.rx.isNone && eWin f.raw && !f.cut

/-- A flight whose parts have all ended is complete once its record, if any, is written (R124, R233). -/
def flightStep (s : State) (id : Nat) : State :=
  let s := endParts s id
  match s.flightOf id with
  | none => s
  | some f =>
    if (f.cut || f.stage == .writing || f.stage == .recording) && f.rx.isNone && f.parts.all (·.gone)
        && !(f.stage == .writing && wantsRecord f) then
      s.setF { f with stage := .complete }
    else s

/-- Releases the locks of a flight on a bay at once (R269): each granule is written back poisoned when its read has returned. -/
def releaseLocks (s : State) (f : Flight) (b : Nat) : State :=
  let mine (l : Lock) : Bool := l.flight == f.id && l.bay == b
  writeBacks { s with locks := s.locks.filter fun l => !mine l, owed := s.owed ++ s.locks.filter mine }

/-- Cuts one part of a flight off (R270 steps 1 to 3, 5, 6). -/
def cutPart (s : State) (id i : Nat) : State :=
  match s.flightOf id with
  | none => s
  | some f =>
    let p := f.parts.getD i { bay := 0 }
    let s := withdrawPart (s.modB p.bay fun y => { y with waits := y.waits.filter fun w => !(w.1 == id && w.2 == i) }) id i
    let f' := { f with cut := true, slots := f.slots.filter (·.part != i), todo := f.todo.filter (·.part != i), wtodo := f.wtodo.filter (·.part != i)
                       parts := f.parts.zipIdx.map fun (x, k) => if k = i then { x with cut := true } else x }
    releaseLocks (s.setF f') f p.bay

/-- Aborts a flight, its faults still to be recorded: every part in the steps of R270, with the CANCEL of step 4 unless the safe state omits
it (R390). A send that was answered BUSY has no open transfer (R206). An instruction whose winnow record's write is already out ends
abandoned all the same, and the record stays as written (DESIGN CHOICE, log 23: R125 speaks of a record not yet issued). -/
def abortFlight (s : State) (id : Nat) (cancel : Bool) : State :=
  match s.flightOf id with
  | none => s
  | some f =>
    if f.stage = .complete then s
    else
      let s := each s (List.range f.parts.length) fun s i => cutPart s id i
      let live := f.xfers.filter fun x => !x.loc && x.result.isNone && !x.detached
      let s := each s live fun s x =>
        if cancel && x.busyAt.isNone then cancelXfer s false x else s.modP x.port fun p => (p.withdraw x).restall s.clk.gclk
      let s := match s.flightOf id with
        | some f => s.setF { f with cut := true, todo := [], wtodo := []
                                    xfers := f.xfers.map fun x => { x with result := some (x.result.getD 2) } }
        | none => s
      flightStep s id

/-- Flights of a queue's dispatched instructions. -/
def queueFlights (s : State) (q : Nat) : List Flight := s.flights.filter fun f => f.rx.isNone && f.q == q

/-- Aborts every dispatched instruction of a queue (R297); a READS fence is aborted with them (R345). -/
def abortAll (s : State) (q : Nat) (cancel : Bool) : State :=
  let fs := queueFlights s q
  let ended (pos : Nat) : Bool := fs.any fun f => f.pos == pos && f.stage == .complete
  let s := each s (fs.map (·.id)) fun s id => abortFlight s id cancel
  let y := s.getQ q
  s.setQ q { y with win := y.win.map fun x => if x.st = .dispatched ∧ !ended x.pos then { x with st := .aborted } else x }

/-- ABORT under Table 8.5. -/
def abortQueue (s : State) (q : Nat) (cancel : Bool) : State :=
  let y := s.getQ q
  match y.state with
  | .enabled => settle (abortAll ((discardAll s q).modQ q fun y => { y with state := .draining }) q cancel) q
  | .draining => settle (abortAll s q cancel) q
  | .error =>
    if y.win.any (fun x => x.st != .retired && x.st != .aborted) || !y.fetches.isEmpty || !(queueFlights s q).isEmpty then
      abortAll (discardAll s q) q cancel
    else s
  | _ => s

/-- A strike's, ENABLE's or CREATE_QUEUE's index-block read is owed: it is issued in the next GCLK, or in the GCLK after an outstanding one
returns, and what asks for it before then asks for the same read (R283, R296, R311). -/
def readIndex (s : State) (q : Nat) : State := s.modQ q fun y => { y with strikePend := true }

end Sys2Proof.Machine
end

