-- ==== Sys2Proof/Machine/Operands.lean ====
section
/-!
DEFINITION. Operands.lean: the operand forms of admin commands (Tables 8.6, 8.7): their fields, checks and results. A command
is held as the little-endian number of its 64 bytes.
-/
namespace Sys2Proof.Machine

/-- Opcode, version and tag of an admin command (R318). -/
def aOp (c : Nat) : Nat := fld c 2 0 8
def aVersion (c : Nat) : Nat := fld c 3 0 8
def aTag (c : Nat) : Nat := fld c 4 0 32
/-- The queue, slot or tally number of bytes 9:8. -/
def aNum (c : Nat) : Nat := fld c 8 0 16
def aK (c : Nat) : Nat := fld c 10 0 8
def aCached (c : Nat) : Bool := bitAt c (8 * 11)
def aOwner (c : Nat) : Nat := fld c 12 0 16
def aClass (c : Nat) : Nat := fld c 14 0 3
def aSetClass (c : Nat) : Nat := fld c 10 0 3
def aRing (c : Nat) : Nat := fld c 16 0 64
def aIdx (c : Nat) : Nat := fld c 24 0 64
def aBudget (c : Nat) : Nat := fld c 12 0 32
def aAddr (c : Nat) : Nat := fld c 16 0 64
def aFirst (c : Nat) : Nat := fld c 10 0 16
def aCount (c : Nat) : Nat := fld c 12 0 16
def aTarget (c : Nat) : Nat := fld c 12 0 32
/-- Wake binding n of a BIND_TALLY: the wire when valid. -/
def aWake (c n : Nat) : Wake := { valid := bitAt c (8 * (16 + 2 * n) + 15), wire := fld c (16 + 2 * n) 0 11 }
def aWdog (c : Nat) : Nat := fld c 24 0 32
def aPages (c : Nat) : Nat := fld c 24 0 32

/-- Bits of a command that its opcode names (R14, Table 8.6), as (first bit, width). -/
def admFields (op : Nat) : List (Nat × Nat) :=
  (0, 64) ::
  match op with
  | 1 => [(64, 16), (80, 8), (88, 1), (96, 16), (112, 3), (128, 64), (192, 64)]
  | 2 => [(64, 16)]
  | 3 => [(64, 16), (80, 3)]
  | 4 => [(64, 16), (96, 32)]
  | 5 => [(64, 16), (128, 64)]
  | 6 => [(64, 16), (80, 16), (96, 16)]
  | 7 => [(64, 14), (96, 32), (128, 11), (143, 12), (159, 12), (175, 12), (191, 1), (192, 32)]
  | 8 => [(128, 64), (192, 32)]
  | _ => [(64, 16)]

/-- Argument ranges of Table 8.6 that do not depend on the engine's state. -/
def admArgsBad (wires c : Nat) : Bool :=
  match aOp c with
  | 1 => aNum c == 0 || decide (aK c < 4) || decide (aK c > (if aCached c then 8 else 16)) || decide (aOwner c > 2047)
      || aRing c % 128 != 0 || aIdx c % 64 != 0
  | 2 | 3 | 4 | 6 => aNum c == 0
  | 5 => decide (aNum c > 1023) || aAddr c % 64 != 0
  | 7 => aTarget c == 0 || decide (aTarget c > 2 ^ 20)
      || ([0, 1, 2, 3].any fun n => (aWake c n).valid && decide ((aWake c n).wire ≥ wires))
  | 8 => aAddr c % 4096 != 0
  | _ => false

/-- The status of a command's checks: 0, or the smallest code that applies (R293, R317). -/
def admCheck (wires c : Nat) : Nat :=
  if crc16 (leBytes (c >>> 16) 62) ≠ bits c 0 16 then 1
  else if aOp c = 0 ∨ aOp c > 9 then 2
  else if c &&& ((2 ^ 512 - 1) ^^^ fieldMask (admFields (aOp c))) ≠ 0 ∨ admArgsBad wires c then 3
  else if aVersion c ≠ 1 then 6
  else 0

/-- A QUERY's result (Table 8.7). -/
def queryResult (state h p n : Nat) : Nat := state + h * 2 ^ 3 + p * 2 ^ 20 + n * 2 ^ 37

/-- The number of a queue state (Table 8.4). -/
def qStateNum (s : QState) : Nat :=
  match s with | .absent => 0 | .disabled => 1 | .enabled => 2 | .draining => 3 | .error => 4

/-- The 16 bytes of a completion entry (Table 8.7); c is the completion index, n the ring's size. -/
def completionBytes (c n tag op status pos result : Nat) : List Byte :=
  leBytes tag 4 ++ leBytes op 1 ++ leBytes (status % 128 + (if (c / n) % 2 = 0 then 128 else 0)) 1 ++ leBytes pos 2 ++ leBytes result 8

end Sys2Proof.Machine
end

