-- ==== Sys2Proof/Machine/MemPorts.lean ====
section
/-! DEFINITION. MemPorts.lean: responses of the mesh and stack ports, translation and invalidation (07, 12). -/
namespace Sys2Proof.Machine

/-- The receiver list of an MCAST has been read: good bytes, or none that can be used (R197). -/
def listDone (s : State) (f : Flight) : State :=
  let y := s.getQ f.q
  match y.slotAt f.pos with
  | none => s.dropF f.id
  | some x =>
    let n := 16 * eMcCnt f.raw
    let bytes := (List.range n).map fun i => (landedByte f.land .other 0 (eMcList f.raw + i)).1
    let bad := f.bad || (List.range n).any fun i => (landedByte f.land .other 0 (eMcList f.raw + i)).2
    let s := s.setQ f.q (y.setSlot { x with list := some bytes, listBad := bad })
    recheck (s.setF { f with parts := [], land := [], slots := [], list := bytes, bad, badFrom := none }) f.q

/-- Whether a flight is only the list read of an MCAST at its check. -/
def isListRead (f : Flight) : Bool := f.rx.isNone && f.stage == .first && (f.parts.getD 0 { bay := 0 }).ctx == some 128

/-- After bytes have landed, or writes have been answered, for a flight: its list is taken, its ended parts give up their
contexts. -/
def pump (s : State) (id : Nat) : State :=
  match s.flightOf id with
  | none => s
  | some f => if isListRead f && readsDone s f then listDone s f else flightStep s id

/-- Every flight in turn. DESIGN CHOICE, log 35. -/
def pumpAll (s : State) : State := each s (s.flights.map (·.id)) pump

/-- A port request has been answered whole: its request goes on or is over, and its flight with it (R230, R247, R269). -/
def requestDone (s : State) (x : Read) : State := pump (writeBacks (readOver s x)) x.flight

/-- A mesh read response returns (R72, R230, R410). -/
def execReadResponse (bay tag : Nat) (r : Resp) (s : State) : Out :=
  match s.reads.find? fun x => x.bay == bay && x.tag == tag && !x.wait && x.beats.isEmpty with
  | none => .next s
  | some x =>
    act s true fun s =>
      let (data, psn, err) := takeResp x.req.va x.req.len r
      requestDone (landLock (landPart s x 0 data psn err) x data) x

/-- A masked bay begins to clear once every write it issued has been answered (R397). -/
def clearBegins (s : State) (b : Nat) : State :=
  if s.writes.any (·.bay == b) then s else s.modB b fun y => { y with clearAt := some s.clk.gclk }

/-- A write response returns (R234, R258): an error is kept for the record, and the line it hit is invalidated. -/
def execWriteResponse (bay tag : Nat) (sts : BitVec 2) (s : State) : Out :=
  match s.writes.find? fun x => x.bay == bay && x.tag == tag && !x.wait with
  | none => .next s
  | some w =>
    act s true fun s =>
      let s := writeBacks (writeOver s w)
      let s := if sts = 0#2 then s else granDropHit s w.pa w.req.data.length
      let s := if (s.getB bay).faulted then clearBegins s bay else s
      match s.flightOf w.flight with
      | none => s
      | some f =>
        let g := if sts = 0#2 then f else
          flightFault f { src := 1, side := w.req.side, ord := w.req.ord, detail := w.pa, len := w.req.data.length, bay, off := w.off }
            (w.req.elem + 8 * w.off / sideWidth f w.req.side * sideFeeds f w.req.side)
        pump (s.setF g) f.id

/-- Both beats of a fill are in: it is allocated when both report OK (R257, R259). DEDUCED, log 27. -/
def fillDone (s : State) (x : Fill) : State :=
  match x.beat0, x.beat1 with
  | some a, some c =>
    let s := { s with gran.fills := s.gran.fills.filter fun z => !(z.slice == x.slice && z.line == x.line) }
    if a.sts = 0#2 ∧ c.sts = 0#2 ∧ !x.noAlloc then
      lineAlloc s { slice := x.slice, line := x.line, owner := x.owner
                    data := sliceBytes a.data 0 256 ++ sliceBytes c.data 0 256
                    psn := BitVec.ofNat 8 (a.psn.toNat % 16 + 16 * (c.psn.toNat % 16)) }
    else s
  | _, _ => s

/-- The beat of a fill that has come in. -/
def Fill.beat (x : Fill) (k : Nat) : Option Resp := if k = 0 then x.beat0 else x.beat1

/-- A read that waits for a beat of a fill is served from it, under the beat's own status (R257): the bytes of the read that lie
in the beat land, and the read is answered once it waits for no other. -/
def landBeat (s : State) (z : Read) (w : Nat × Nat × Nat) (r : Resp) : State :=
  match s.reads.find? (fun x => x.bay == z.bay && x.tag == z.tag && x.beats.contains w), decodePa s z.pa with
  | some x, some (_, lpa) =>
    match (beatParts lpa x.req.len).find? fun p => p.1 == w.2.1 && p.2.1 == w.2.2 with
    | none => s
    | some (_, _, off, len) =>
      let o := (lpa + off) % 256
      let (data, psn, err) := takeResp (x.req.va + off) len
        { sts := r.sts, psn := BitVec.ofNat 5 (r.psn.toNat >>> (o / 64)), data := r.data.drop o }
      let y := { x with beats := x.beats.erase w }
      let s := landLock (landPart { s with reads := s.reads.map fun r => if r = x then y else r } y off data psn err) y data
      if y.beats.isEmpty then requestDone s y else s
  | _, _ => s

/-- A beat of a line fill returns: it passes to the requests that wait for it, and to those that came for the other beat after
that was in (R256, R257). -/
def execFillBeat (slice line beat : Nat) (r : Resp) (s : State) : Out :=
  match fillOf s slice line with
  | none => .next s
  | some x =>
    act s (if beat = 0 then x.beat0.isNone else x.beat1.isNone) fun s =>
      let x := if beat = 0 then { x with beat0 := some r } else { x with beat1 := some r }
      let served := s.reads.flatMap fun z => [0, 1].filterMap fun k =>
        if z.beats.contains (slice, line, k) then (x.beat k).map fun r => (z, k, r) else none
      let s := fillDone { s with gran.fills := s.gran.fills.map fun z => if z.slice = slice ∧ z.line = line then x else z } x
      each s served fun s (z, k, r) => landBeat s z (slice, line, k) r

/-- A Translation Request is sent for a page that a request of the bay misses (R244, R245). -/
def execTranslationRequest (bay va : Nat) (s : State) : Out :=
  let y := s.getB bay
  let page := va / 4096 * 4096
  let free := (List.range 32).find? fun n => !y.xl.any fun x => x.1 == n
  match free with
  | none => .next s
  | some n =>
    act s (waitsForPage s bay page && bayAwake y && !s.held && !y.xl.any fun x => x.2 == page) fun s =>
      s.setB bay { y with xl := y.xl ++ [(n, page)], missCnt := y.missCnt + 1 }

/-- A Translation Completion: an entry, or a page fault for every request that waits (R246, R249, R424). -/
def execTranslationCompletion (bay req : Nat) (sts : BitVec 2) (addr size : Nat) (r w : Bool) (s : State) : Out :=
  match (s.getB bay).xl.find? fun x => x.1 == req with
  | none => .next s
  | some x =>
    act s true fun s =>
      let s := s.modB bay fun y => { y with xl := y.xl.filter fun z => z.1 != req }
      if sts ≠ 0#2 ∨ (!r && !w) then
        pumpAll { s with flights := s.flights.map fun f => drainSlots s (faultWrites s bay x.2 (faultReads s bay x.2 f)) }
      else
        let n := pageBytes size
        pumpAll (mapEnter s bay { va := x.2 / n * n, size := if size ≤ 3 then size else 0, pa := addr / n * n })

/-- Invalidates the matching entries of every bay (R248): a sleeping bay applies it on waking (R447). The granger holds the issue
arbiters meanwhile (R264), for this GCLK (DESIGN CHOICE, log 35). The answer awaits every request outstanding in the bays that held
a match. -/
def invalidate (s : State) (itag : Option Nat) (rng : InvRange) : State :=
  let hit (b : Nat) : Bool := (s.getB b).mapc.any (·.hit rng)
  let asleep (y : Bay) : Bool := y.pwr == .nap || y.pwr == .dormant
  let reads := (s.reads.filter fun r => hit r.bay && !asleep (s.getB r.bay)).map fun r => (r.bay, r.tag)
  let writes := (s.writes.filter fun r => hit r.bay && !asleep (s.getB r.bay)).map fun r => (r.bay, r.tag)
  { s with bay := s.bay.map fun (b, y) =>
             (b, if asleep y then { y with defer := y.defer ++ [rng], emerg := true }
                 else { y with mapc := y.mapc.filter fun e => !e.hit rng, emerg := true })
           inv := s.inv ++ [{ itag, range := rng, reads, writes }] }

/-- An ATS Invalidation Request is accepted, 32 at most (R425). -/
def execAtsInvalidationRequest (addr log2 itag : Nat) (s : State) : Out :=
  act s (decide ((s.inv.filter fun v => v.itag.isSome).length < 32)) fun s =>
    invalidate s (some itag) { all := decide (log2 ≥ 52), lo := addr / 4096 * 4096, hi := addr / 4096 * 4096 + 4096 * 2 ^ log2 }

/-- The n-th invalidation in progress completes once everything it awaits has been answered (R248): the ATS completion is
presented, or the admin command is done. -/
def execShootdownComplete (n : Nat) (s : State) : Out :=
  match s.inv[n]? with
  | none => .next s
  | some v =>
    act s (v.reads.isEmpty && v.writes.isEmpty && s.eng.gFaultAt.isNone) fun s =>
      let s := { s with inv := s.inv.eraseIdx n }
      match v.itag, s.adm.cmd with
      | none, some c => { s with adm.cmd := some { c with phase := .done 0 0 } }
      | _, _ => s

end Sys2Proof.Machine
end

