-- ==== Sys2Proof/Machine/Plan.lean ====
section
/-!
DEFINITION. Plan.lean: what the data and link instructions share: splitting into parts (R224, Table 7.1), placing them on
bays (R225), loft (Table 7.2), the index stream (R133, R138), and turning results into write requests (R56, R70, R117).
-/
namespace Sys2Proof.Machine

/-! ### Parts -/

/-- How an instruction's rows are cut into parts: `c` iterations of `per` rows each over `n` parts, nearly equal (DEDUCED, log 8). -/
structure Cut where
  c : Nat
  per : Nat
  n : Nat
  deriving DecidableEq, Repr

/-- The part of a row. -/
def Cut.part (k : Cut) (row : Nat) : Nat :=
  if k.n ≤ 1 then 0 else min (k.n - 1) (((row / max 1 k.per + 1) * k.n - 1) / max 1 k.c)

/-- The first row of a part. -/
def Cut.start (k : Cut) (i : Nat) : Nat := i * k.c / max 1 k.n * k.per

/-- Tile rows by source width (Table 2.3). -/
def tileRows (w : Nat) : Nat := if w = 2 then 1024 else if w = 4 then 512 else 256

/-- Bytes of one tile (Table 2.3). -/
def tileBytes (w : Nat) : Nat := if w = 2 then 262144 else if w = 4 then 131072 else 65536

/-- The outermost source loop whose count is above 1: its count and the rows of one iteration. -/
def outerLoop (s : Shape) : Nat × Nat :=
  if s.cnt3 > 1 then (s.cnt3, s.cnt1 * s.cnt2) else if s.cnt2 > 1 then (s.cnt2, s.cnt1) else if s.cnt1 > 1 then (s.cnt1, 1) else (1, 1)

/-- Table 7.1 for the opcodes that split by source loops; `slots` are the request slots of the busier side. A corner turn of
one plane splits on whole tile rows. -/
def loopCut (bays slots : Nat) (s : Shape) (w : Nat) (ct : Bool) : Cut :=
  let (c, per) := outerLoop s
  let n := max 1 (min bays (min c (ceilDiv slots 1024)))
  if ct && s.cnt2 * s.cnt3 == 1 then
    let t := ceilDiv s.cnt1 (tileRows w)
    { c := t, per := tileRows w, n := min n (max 1 t) }
  else { c, per, n }

/-- One part over a number of rows. -/
def oneCut : Cut := { c := 1, per := 1, n := 1 }

/-- Loft a part holds (Table 7.2). -/
def loftOf (e : Nat) : Nat :=
  let turn := if eCt e then 2 * tileBytes (eSrcW e) else 0
  match opOf e with
  | some .move | some .cast | some .unpack => turn
  | some .pack => 65536 + turn
  | some .contract => if eCform e = 2 then 73728 else 278528
  | some .mcast => 65536
  | _ => 0

/-- R225: the bay for a part of the flight `id`: the one with the most free contexts, Active bays first, then the lowest number,
among those that carry no part of it yet (R23); when every bay does, among all (DEDUCED, log 8). A masked bay takes no part (R397),
and a bay in Nap or Dormant counts as having none free (R446). -/
def placeBay (s : State) (id : Nat) : Option Nat :=
  let used := match s.flightOf id with | some f => f.parts.map fun (p : Part) => p.bay | none => []
  let key (b : Nat) : Nat :=
    let y := s.getB b
    2 * (if y.pwr == .nap || y.pwr == .dormant then 128 else y.ctxs.length) + (if y.pwr == .active then 0 else 1)
  let best (l : List Nat) : Option Nat := l.foldl (fun m b =>
    match m with
    | none => some b
    | some a => if key b < key a then some b else some a) none
  let open_ := (List.range s.cfg.bays).filter fun b => !(s.getB b).faulted
  match best (open_.filter fun b => !used.contains b) with
  | some b => some b
  | none => best open_

/-- The head of a bay's wait order (R228): parts of real-time queues within budget first, each in order of waiting. -/
def waitHead (s : State) (b : Nat) : Option (Nat × Nat) :=
  let w := (s.getB b).waits
  let rt (x : Nat × Nat) : Bool := match s.flightOf x.1 with | some f => rtIn (s.getQ f.q) | none => false
  match w.find? rt with
  | some x => some x
  | none => w.head?

/-- Loft of a bay. -/
def loftBytes : Nat := 1048576

/-- Whether a bay can take a part now: awake in Active, a context free, loft for it (R226, R445). -/
def bayTakes (y : Bay) (loft : Nat) : Bool :=
  y.pwr == .active && y.waking.isNone && !y.faulted && decide (y.ctxs.length < 128) && decide (y.loft + loft ≤ loftBytes)

/-- Whether a bay has a context and the loft for the head of its wait order (R226, R228). -/
def headFits (s : State) (b : Nat) : Bool :=
  match waitHead s b with
  | none => false
  | some (id, i) =>
    match s.flightOf id with
    | some f => bayTakes (s.getB b) (f.parts.getD i { bay := b }).loft
    | none => false

/-- Places n parts of the flight of an id, each in its bay's wait order (R225, R228). -/
def placeParts (s : State) (id loft : Nat) : Nat → State
  | 0 => s
  | n + 1 =>
    match placeBay s id with
    | none => s
    | some b =>
      match s.flightOf id with
      | none => s
      | some f =>
        let s := s.setF { f with parts := f.parts ++ [{ bay := b, loft, since := s.clk.gclk }] }
        placeParts (s.modB b fun y => { y with waits := y.waits ++ [(id, f.parts.length)] }) id loft n

/-- The entry of a queue that competes for dispatch: its front one, checked and not yet split, fewer than 16 instructions of the
queue being dispatched and unretired (R227). -/
def competes (s : State) (q : Nat) : Option Slot :=
  let y := s.getQ q
  match y.front with
  | some x =>
    if x.st == .fetched && (match opOf x.raw with | some o => !opIsControl o | none => false)
        && (y.state == .enabled || y.state == .error) && decide (y.inflight < 16) && !coreMasked s y.owner
        && (match s.flightAt q x.pos with | some f => f.parts.isEmpty && f.stage != .complete | none => true)
    then some x else none
  | none => none

/-- The order in which queues compete for dispatch (R227): real-time queues within budget, the higher class, the earlier fetch;
of two fetched in one GCLK, the lower queue (DESIGN CHOICE, log 35). -/
def goesBefore (s : State) (a b : Nat × Slot) : Bool :=
  let x := s.getQ a.1
  let y := s.getQ b.1
  if rtIn x != rtIn y then rtIn x
  else if x.cls != y.cls then decide (x.cls > y.cls)
  else if a.2.at_ != b.2.at_ then decide (a.2.at_ < b.2.at_)
  else decide (a.1 < b.1)

/-- Whether no other queue's entry goes before queue q's entry x (R227, R273). -/
def firstInLine (s : State) (q : Nat) (x : Slot) : Bool :=
  s.qs.keys.all fun k => k == q || (match competes s k with | some z => goesBefore s (q, x) (k, z) | none => true)

/-- Whether the entry at a position may be split and placed now: it is the front entry, fewer than 16 instructions of its
queue are dispatched and unretired, no other queue goes before it (R227), some bay takes parts. -/
def mayPlace (s : State) (q pos : Nat) (o : Op) : Bool :=
  (match frontIs s q o with | some x => x.pos == pos && firstInLine s q x | none => false)
  && decide ((s.getQ q).inflight < 16) && (placeBay s s.nextId).isSome && !coreMasked s (s.getQ q).owner

/-- Reads in a part's order (R230). -/
def numbered (l : List RdReq) : List RdReq := l.zipIdx.map fun (r, n) => { r with n }

/-- The flight of an entry that is being placed, in `n` parts with their first reads: for an MCAST, the one that read its
list goes on. -/
def placeEntry (s : State) (q pos n : Nat) (todo : List RdReq) : State :=
  match (s.getQ q).slotAt pos with
  | none => s
  | some x =>
    let s := match s.flightAt q pos with
      | some _ => s
      | none => s.addF { id := 0, q, pos, raw := x.raw, missed := x.missed, bad := x.listBad, local_ := x.local_ }
    match s.flightAt q pos with
    | none => s
    | some f => pump (placeParts (s.setF { f with todo := numbered todo, missed := x.missed }) f.id (loftOf x.raw) n) f.id

/-! ### Reads -/

/-- The first row of a row's merged run: rows merge by `m` within a part. -/
def Cut.grp (k : Cut) (m row : Nat) : Nat := max (row / max 1 m * m) (k.start (k.part row))

/-- Gives each request of runs whose `grp` is a row its part. -/
def partReqs (k : Cut) (l : List RdReq) : List RdReq := l.map fun r => { r with part := k.part r.grp }

/-- Read requests of a plain source side (R66, R67). -/
def plainReads (k : Cut) (s : Shape) (w : Nat) (ct : Bool) : List RdReq :=
  partReqs k (runReads .source w (srcRuns s w (k.grp (srcMerge s w ct))))

/-- Read requests of an array of `w`-bit entries: entries a to b − 1 for one part; `ord` numbers the array's entries, `elem`
answers the first stream element an entry feeds. -/
def arrayReads (side : Side) (w base part a b : Nat) (elem : Nat → Nat) : List RdReq :=
  let lo := (8 * base + w * a) / 8
  let hi := (8 * base + w * b + 7) / 8
  (cutRun (hi - lo)).map fun (off, len) =>
    let ord := (8 * (lo + off) - 8 * base) / w
    { side, grp := part, ord, elem := elem ord, part, va := lo + off, len }

/-- Rows of an indexed side that a part walks, when its elements begin at source row `k.start`: `run` and `srun` are the
indexed side's and the source's run. -/
def Cut.idxRow (k : Cut) (i srun run : Nat) : Nat := ceilDiv (k.start i * srun) (max 1 run)

/-- Index reads of every part (R133, R137): a part reads the positions its rows name, or the whole list when planes share it. -/
def indexReads (k : Cut) (e : Nat) (side : Shape) (srun : Nat) : List RdReq :=
  let planes := side.cnt2 * side.cnt3
  let elem (p : Nat) : Nat := p * side.run
  if eIdxShare e && planes != 1 then
    (List.range k.n).flatMap fun i => arrayReads .index 32 (eIdxBase e) i 0 side.cnt1 fun _ => 0
  else
    (List.range k.n).flatMap fun i =>
      let a := k.idxRow i srun side.run
      let b := if i + 1 = k.n then side.rows else k.idxRow (i + 1) srun side.run
      if a < b then arrayReads .index 32 (eIdxBase e) i a b elem else []

/-- What an index position holds. -/
structure Idx where
  x : Nat
  psn : Bool
  deriving DecidableEq, Repr

/-- The conditions of Table 5.2. -/
def Idx.ok (lim : Nat) (i : Idx) : Bool := !i.psn && decide (i.x < lim)
def Idx.outOfRange (lim : Nat) (i : Idx) : Bool := !i.psn && decide (lim ≤ i.x) && i.x != 0xFFFFFFFF
def Idx.skipped (lim : Nat) (i : Idx) : Bool := !i.psn && decide (lim ≤ i.x)

/-- The index of each row of the indexed side (R133), `part` naming a row's part. -/
def rowIndices (e : Nat) (side : Shape) (part : Nat → Nat) (land : List Landed) : List Idx :=
  (List.range side.rows).map fun r =>
    let p := if eIdxShare e then r % side.cnt1 else r
    let v := landedBits land .index (part r) (8 * (eIdxBase e + 4 * p)) 32
    { x := v.1, psn := v.2 }

/-- Whether rows r − 1 and r of an indexed side merge (R138); `bytes` is the row length in bytes, 0 when not whole. -/
def idxGlue (e : Nat) (side : Shape) (bytes : Nat) (part : Nat → Nat) (ix : List Idx) (r : Nat) : Bool :=
  let z : Idx := { x := 0, psn := true }
  let a := ix.getD (r - 1) z
  let b := ix.getD r z
  r % side.cnt1 != 0 && part r == part (r - 1) && bytes != 0 && side.step1 == (bytes : Int)
  && a.ok (eIdxLim e) && b.ok (eIdxLim e) && b.x == a.x + 1

/-- The first row of each row's merged run. -/
def runHeads (glue : Nat → Bool) : Nat → List Nat
  | 0 => []
  | n + 1 =>
    let l := runHeads glue n
    l ++ [if glue n then l.getD (n - 1) n else n]

/-- Heads of the merged rows of an indexed side. -/
def idxHeads (e : Nat) (side : Shape) (w : Nat) (part : Nat → Nat) (ix : List Idx) : List Nat :=
  let bytes := if axisFree side.start0 side.run side.ext0 then wholeBytes w side.run else 0
  runHeads (idxGlue e side bytes part ix) side.rows

/-- Coordinates of a row of an indexed side (R134). -/
def idxRowK (side : Shape) (ix : List Idx) (r : Nat) : Int × Int × Int :=
  let (_, k2, k3) := srcRowK side r
  (((ix.getD r { x := 0, psn := true }).x : Int), k2, k3)

/-- Row reads of an indexed source side. -/
def idxRowReads (k : Cut) (e : Nat) (s : Shape) (w : Nat) (ix : List Idx) : List RdReq :=
  let heads := idxHeads e s w k.part ix
  partReqs k (runReads .source w (joinSpans s.run ((List.range s.rows).filterMap fun r =>
    if (ix.getD r { x := 0, psn := true }).ok (eIdxLim e) then
      let (k1, k2, k3) := idxRowK s ix r
      srcRowSpan s w r k1 k2 k3 (heads.getD r r != r)
    else none) []))

/-! ### Results -/

/-- The elements a flight produced, in the order the destination walk places them, with its counts (R122). -/
structure Made where
  es : List Elem
  elem : Nat := 0
  clip : Nat := 0
  degen : Nat := 0
  nonfin : Nat := 0
  /-- CONTRACT: the outputs that count as written (Table 5.8) -/
  sound : List Bool := []
  /-- the scale side stream's bytes with their poison (R115) -/
  scales : List (Byte × Bool) := []
  /-- elements per scale -/
  unit : Nat := 1
  deriving DecidableEq, Repr

/-- The part of an element: of the source row it comes from (R60 for a corner turn). -/
def Cut.ofElem (k : Cut) (s d : Shape) (ct : Bool) (n : Nat) : Nat :=
  k.part ((if ct then turnIdx s d n else n) / max 1 s.run)

/-- Byte ranges of reads, and of writes of a side. -/
def rdRanges (l : List RdReq) : List (Nat × Nat) := l.map fun r => (r.va, r.va + r.len)
def wrRanges (l : List WrReq) : List (Nat × Nat) := l.map fun w => (w.va, w.va + w.data.length)

/-- Whether an address lies in some range, and whether two lists of ranges overlap: by the addresses an entry names (DEDUCED, log 30). -/
def inRanges (l : List (Nat × Nat)) (a : Nat) : Bool := l.any fun r => decide (r.1 ≤ a) && decide (a < r.2)
def rangesMeet (l m : List (Nat × Nat)) : Bool :=
  l.any fun r => m.any fun z => decide (r.1 < z.2) && decide (z.1 < r.2)

/-- Replaces the bytes of a write whose addresses `p` picks by free bytes (R70, R117, DESIGN CHOICE, log 9). -/
def freeWrite (s : State) (p : Nat → Bool) (w : WrReq) : State × WrReq :=
  if (List.range w.data.length).any fun i => p (w.va + i) then
    let (l, s) := s.freeBytes w.data.length
    (s, { w with data := (w.data.zip l).zipIdx.map fun ((a, b), i) => if p (w.va + i) then b else a })
  else (s, w)

/-- Frees bytes of each write of a list. -/
def freeWrites (s : State) (p : Nat → Bool) : List WrReq → State × List WrReq
  | [] => (s, [])
  | w :: r =>
    let (s, w) := freeWrite s p w
    let (s, r) := freeWrites s p r
    (s, w :: r)

/-- R70, R117 and R137 on the writes of an instruction: `reads` are the bytes of its source, index and operand reads,
`scales` those of the side stream it reads, `record` its winnow record. -/
def overlapFree (s : State) (reads scales record : List (Nat × Nat)) (ws : List WrReq) : State × List WrReq :=
  let dst := wrRanges (ws.filter (·.side == .dest))
  let side := wrRanges (ws.filter (·.side == .scale))
  let all := rangesMeet dst reads
  let (s, a) := freeWrites s (fun x => all || inRanges side x || inRanges scales x) (ws.filter (·.side == .dest))
  let (s, b) := freeWrites s (fun x => inRanges dst x || inRanges reads x || inRanges record x) (ws.filter (·.side == .scale))
  (s, a ++ b)

/-- The winnow record's bytes, when it has one. -/
def recordRange (e : Nat) : List (Nat × Nat) := if eWin e then [(eWinBase e, eWinBase e + 32)] else []

/-- Write requests of the side stream (R115): one run; `unit` elements share a scale. -/
def scaleWrites (e unit : Nat) (bs : List (Byte × Bool)) : List WrReq :=
  (runWrites .scale (8 * scBytes e) (eScBase e) 0 bs).map fun w => { w with elem := w.elem * unit }

/-- Whether an element's part has been cut off: its bytes never came (R396). -/
def lostElem (f : Flight) (part : Nat → Nat) (n : Nat) : Bool := (f.parts.getD (part n) { bay := 0 }).cut

/-- The elements of a part that was cut off were never converted: they count as little as those that arrived poisoned (R126). -/
def markLost (f : Flight) (part : Nat → Nat) (es : List Elem) : List Elem :=
  if f.cut then es.zipIdx.map fun (x, n) => if lostElem f part n then { x with psn := true } else x else es

/-- A flight's results are ready: its writes wait to be issued, each in the part of its first element. A write that holds an
element of a part that was cut off is not made (DEDUCED, log 8). -/
def produce (s : State) (id : Nat) (m : Made) (part : Nat → Nat) (d : Shape) (w : Nat) (ws : List WrReq)
    (reads scales : List (Nat × Nat)) : State :=
  match s.flightOf id with
  | none => s
  | some f =>
    let ws := (ws ++ scaleWrites f.raw m.unit m.scales).map fun r => { r with part := part r.elem }
    let ws := if f.cut then
        ws.filter fun r =>
          let (a, b) := writeSpan d w r
          !(List.range (b - a)).any fun i => lostElem f part (a + i)
      else ws
    let (s, ws) := overlapFree s reads scales (recordRange f.raw) ws
    pump (s.setF { f with stage := .writing, wtodo := ws, land := [], elem := m.elem, clip := m.clip, degen := m.degen
                          nonfin := m.nonfin, sound := m.sound }) id

/-! ### The form of a data instruction's command (DESIGN CHOICE, log 7) -/

/-- One command of the instruction at an entry: it is placed, or what can go on goes on. -/
def workOn (s : State) (q pos : Nat) (o : Op) (place : State → Slot → State) (go : State → Flight → State) : Out :=
  match s.flightAt q pos with
  | some f =>
    if isListRead f then .next s
    else if f.parts.isEmpty then
      act s (mayPlace s q pos o) fun s => match (s.getQ q).slotAt pos with | some x => place s x | none => s
    else
      act s (opOf f.raw == some o && f.stage != .complete && !s.held) fun s =>
        match (pump s f.id).flightOf f.id with
        | some g => go (pump s f.id) g
        | none => pump s f.id
  | none => act s (mayPlace s q pos o) fun s => match (s.getQ q).slotAt pos with | some x => place s x | none => s

/-- Whether a flight's reads of its present stage are all done, and it has results to produce. -/
def readyAt (s : State) (f : Flight) (st : Stage) : Bool := f.stage == st && readsDone s f && f.parts.any fun p => !p.cut

end Sys2Proof.Machine
end

