-- ==== Sys2Proof/Machine/Narrow.lean ====
section
/-!
DEFINITION. Narrow.lean: the element computations of CAST, PACK and UNPACK (03, 04): conversion, scale units, codebooks,
events and counts.
-/
namespace Sys2Proof.Machine

/-- The rounding mode of an entry for destination element n (R80, R83, R85). -/
def roundOf (e n : Nat) : Round :=
  { rnd := eRnd e, ovfInf := eOvfInf e, r := if eRnd e = 2 then srRandom (eSeed e) n else 0 }

/-- A converted element: poisoned when it arrived so or when its conversion generates poison, pads aside (R89, R92). -/
def outElem (x : Elem) (c : Conv) : Elem := { code := c.code, pad := x.pad, psn := x.psn || (c.gen && !x.pad) }

/-- Elements of a list that did not arrive poisoned. -/
def soundCount (es : List Elem) : Nat := (es.filter fun x => !x.psn).length

/-- MOVE, FILL, GATHER, SCATTER and the links: bits copied (R337). -/
def copyMade (es : List Elem) : Made := { es }

/-- CAST (R80, R87, R90, R92). -/
def castMade (e : Nat) (es : List Elem) : Made :=
  if eSrcFmt e = eDstFmt e then { es, elem := soundCount es }
  else
    let cs := es.zipIdx.map fun (x, n) => (x, convert (eDstFmt e) (roundOf e n) (valueOf (eSrcFmt e) x.code))
    { es := cs.map fun (x, c) => outElem x c, elem := soundCount es
      clip := (cs.filter fun (x, c) => !x.psn && c.clip).length }

/-! ### Codebooks -/

/-- The value of a crib entry. -/
def cbVal (cb : List Nat) (i : Nat) : Val := valueOf 1 (cb.getD i 0)

/-- A slot's used entries. -/
def cbOf (s : State) (e fmt : Nat) : List Nat := (List.range (cbEntries fmt)).map (cribEntry s (eCbSlot e))

/-- A finite value times 2^24 as an integer: binary16 values are whole multiples of 2^−24. -/
def cbInt (cb : List Nat) (i : Nat) : Int := valInt (cbVal cb i) (-24)

/-- A rational number: ±n / d × 2^e. -/
structure Rat2 where
  neg : Bool
  n : Nat
  d : Nat
  e : Int
  deriving DecidableEq, Repr

/-- Sign of v − y × 2^−25 for an integer y: −1, 0 or 1. -/
def cmpRat (v : Rat2) (y : Int) : Int :=
  let q := ratio v.n v.d (v.e + 25)
  let a : Int := if v.neg then -(q.1 : Int) else q.1
  let b : Int := y * q.2
  if a < b then -1 else if a = b then 0 else 1

/-- enc_cb of R103 on a finite scaled value. -/
def encCb (cb : List Nat) (v : Rat2) : Conv :=
  let n := cb.length
  let c (i : Nat) : Int := 2 * cbInt cb i
  if cmpRat v (c (n - 1)) > 0 then { code := n - 1, clip := true }
  else if cmpRat v (c 0) < 0 then { code := 0, clip := true }
  else
    let i := ((List.range n).filter fun i => decide (cmpRat v (c i) ≥ 0)).foldl max 0
    if cmpRat v (c i) = 0 then { code := i }
    else
      let m := cmpRat v (cbInt cb i + cbInt cb (i + 1))
      if m < 0 then { code := i } else if m > 0 then { code := i + 1 }
      else { code := if i % 2 = 0 then i else i + 1 }

/-! ### Scales (R96, R106 to R114) -/

/-- emax_elem and maxmag (Table 4.1); maxmag as a magnitude and a power of two. -/
def narrowConst (fmt : Nat) (cb : List Nat) : Int × Nat × Int :=
  match fmt with
  | 3 => (8, 448, 0) | 4 => (15, 57344, 0) | 5 => (2, 15, -1) | 6 => (4, 28, 0) | 7 => (2, 6, 0) | 8 => (0, 127, -6)
  | 9 => (6, 127, 0) | 25 => (7, 255, 0) | 10 => (2, 7, 0) | 26 => (3, 15, 0) | 11 => (0, 1, 0) | 27 => (1, 3, 0)
  | _ =>
    let a := cbInt cb 0
    let b := cbInt cb (cb.length - 1)
    let hi := max a.natAbs b.natAbs
    let mm := if a < 0 ∧ 0 < b then min a.natAbs b.natAbs else if a ≥ 0 then b.natAbs else a.natAbs
    (floorLog2 (max 1 hi) 1 - 24, mm, -24)

/-- The scale of a unit: its code, and its value as a rational when it is a number. -/
structure Scale where
  code : Nat
  n : Nat
  e : Int
  nan : Bool := false
  deriving DecidableEq, Repr

/-- The scale 2^k in an entry's scale format, k clamped (R109, R110). -/
def powScale (f16 : Bool) (k : Int) : Scale :=
  let k := if f16 then max (-24) (min 15 k) else max (-127) (min 127 k)
  { code := if f16 then (convertFin 1 { rnd := 0 } false 1 1 k).code else (k + 127).toNat, n := 1, e := k }

/-- NaN, and 1.0 (Table 4.3). -/
def nanScale (f16 : Bool) : Scale := { code := if f16 then 0x7E00 else 0xFF, n := 0, e := 0, nan := true }
def oneScale (f16 : Bool) : Scale := { code := if f16 then 0x3C00 else 0x7F, n := 1, e := 0 }

/-- Ceiling of log2 of n / d × 2^e. -/
def ceilLog2 (n d : Nat) (e : Int) : Int :=
  let k := floorLog2 n d + e
  let q := ratio n d (e - k)
  if q.1 = q.2 then k else k + 1

/-- A magnitude n / d × 2^e rounded toward +∞ onto the binary16 grid, saturated at 65,504 (R110). -/
def upScale (n d : Nat) (e : Int) : Scale :=
  let l : Int := max (floorLog2 n d + e) (-14) - 10
  let q := ratio n d (e - l)
  let y := ceilDiv q.1 q.2
  let code := ((l + 24).toNat <<< 10) + y
  let code := if code > 0x7BFF then 0x7BFF else code
  match valueOf 1 code with
  | .fin _ m x => { code, n := m, e := x }
  | _ => nanScale true

/-- The no-clip scale of a magnitude m × 2^e (R110). -/
def noclipScale (f16 : Bool) (mm : Nat) (me : Int) (m : Nat) (e : Int) : Scale :=
  if f16 then upScale m mm (e - me) else powScale false (ceilLog2 m mm (e - me))

/-- The greater of two magnitudes. -/
def maxMag (a b : Nat × Int) : Nat × Int := if ratioGt b.1 1 b.2 a.1 1 a.2 then b else a

/-- The greatest magnitude of a unit's finite elements that did not arrive poisoned (R108). -/
def unitMag (src : Nat) (xs : List Elem) : Nat × Int :=
  xs.foldl (fun a x =>
    if x.psn then a else match valueOf src x.code with | .fin _ m e => maxMag a (m, e) | _ => a) (0, 0)

/-- A unit's scale (R114). -/
def unitScale (e : Nat) (cb : List Nat) (xs : List Elem) : Scale :=
  let f16 := eScFmt e == 1
  let src := eSrcFmt e
  let a := unitMag src xs
  let nf := xs.any fun x => !x.psn && !valFinite (valueOf src x.code)
  let (em, mm, me) := narrowConst (eDstFmt e) cb
  if eScaleRule e = 0 then oneScale f16
  else if eScaleRule e = 1 ∧ nf then nanScale f16
  else if a.1 = 0 then oneScale f16
  else if eScaleRule e = 1 then powScale f16 (floorLog2 a.1 1 + a.2 - em)
  else noclipScale f16 mm me a.1 a.2

/-- A value divided by a scale, encoded into a narrow format (R103, R104, Table 4.3). -/
def encode (dst : Nat) (cb : List Nat) (m : Round) (v : Val) (x : Scale) : Conv :=
  match v with
  | .fin neg n e => if fmtIsCb dst then encCb cb { neg, n, d := x.n, e := e - x.e } else convertFin dst m neg n x.n (e - x.e)
  | .inf neg => if fmtIsCb dst then { code := if neg then 0 else cb.length - 1, clip := true } else convertSpecial dst v
  | .nan => if fmtIsCb dst then { (encCb cb { neg := false, n := 0, d := 1, e := 0 }) with clip := false, gen := true } else convertSpecial dst v

/-- The code nearest zero (R97). -/
def zeroCode (dst : Nat) (cb : List Nat) : Nat := if fmtIsCb dst then (encCb cb { neg := false, n := 0, d := 1, e := 0 }).code else 0

/-- One unit of a PACK: its elements, clips, whether it is degenerate, its scale with its poison (R112 to R114). -/
structure Packed where
  es : List Elem
  clip : Nat
  degen : Bool
  scale : Scale
  psn : Bool
  deriving DecidableEq, Repr

/-- pack_unit of R114; n0 is the number of its first element. -/
def packUnit (e : Nat) (cb : List Nat) (n0 : Nat) (xs : List Elem) : Packed :=
  let src := eSrcFmt e
  let dst := eDstFmt e
  let sc := unitScale e cb xs
  let zero := (unitMag src xs).1 == 0
  let anyPsn := xs.any (·.psn)
  let enc := xs.zipIdx.map fun (x, k) =>
    let v := valueOf src x.code
    if x.psn || sc.nan || (eScaleRule e != 0 && zero && valFinite v) then (x, ({ code := zeroCode dst cb } : Conv))
    else (x, encode dst cb (roundOf e (n0 + k)) v sc)
  { es := enc.map fun (x, c) => outElem x c
    clip := (enc.filter fun (x, c) => !x.psn && c.clip).length
    degen := zero && !sc.nan && eScaleRule e != 0 && !anyPsn, scale := sc, psn := anyPsn }

/-- PACK (R105, R112 to R115). -/
def packMade (s : State) (e : Nat) (d : Shape) (es : List Elem) : Made :=
  let cb := if fmtIsCb (eDstFmt e) then cbOf s e (eDstFmt e) else []
  let l := max 1 (unitLen e d.run)
  let us := (chunk l (es.length / l) es).zipIdx.map fun (xs, u) => packUnit e cb (u * l) xs
  { es := us.flatMap (·.es), elem := soundCount es, clip := (us.map (·.clip)).sum, degen := (us.filter (·.degen)).length
    nonfin := (es.filter fun x => !x.psn && !valFinite (valueOf (eSrcFmt e) x.code)).length
    scales := if eScaleRule e = 0 then [] else us.flatMap fun u => (leBytes u.scale.code (scBytes e)).map fun b => (b, u.psn)
    unit := l }

/-- The value of a scale code (R106, R119). -/
def scaleVal (f16 : Bool) (code : Nat) : Val :=
  if f16 then valueOf 1 code else if code = 0xFF then .nan else .fin false 1 ((code : Int) - 127)

/-- Scale u of a side stream as it landed in run `grp`, with its poison. -/
def landedScale (e : Nat) (land : List Landed) (grp u : Nat) : Val × Bool :=
  let b := scBytes e
  let v := landedBits land .scale grp (8 * (eScBase e + u * b)) (8 * b)
  (scaleVal (eScFmt e == 1) v.1, v.2)

/-- The value of a narrow code (R118). -/
def narrowVal (cb : List Nat) (fmt code : Nat) : Val := if fmtIsCb fmt then cbVal cb code else valueOf fmt code

/-- UNPACK (R118, R119, R121): a poisoned scale makes no pad element carry poison (R72), which raises no event and counts nothing all the
same; `part` names the run of scales an element's unit was read in. -/
def unpackMade (s : State) (e : Nat) (src : Shape) (land : List Landed) (part : Nat → Nat) (es : List Elem) : Made :=
  let cb := if fmtIsCb (eSrcFmt e) then cbOf s e (eSrcFmt e) else []
  let l := max 1 (unitLen e src.run)
  let cs := es.zipIdx.map fun (x, n) =>
    let sc := if eScaleRule e = 0 then (Val.fin false 1 0, false) else landedScale e land (part (n / l * l)) (n / l)
    let v := valMul (narrowVal cb (eSrcFmt e) x.code) sc.1
    (x, x.psn || sc.2, v, convert (eDstFmt e) (roundOf e n) v)
  { es := cs.map fun (x, psn, _, c) => outElem { x with psn := x.psn || (psn && !x.pad) } c
    elem := (cs.filter fun (_, psn, _, _) => !psn).length
    clip := (cs.filter fun (_, psn, _, c) => !psn && c.clip).length
    nonfin := (cs.filter fun (_, psn, v, _) => !psn && !valFinite v).length }

/-- Scale reads of an UNPACK (R115): each part reads the scales of its units. -/
def unpackScaleReads (k : Cut) (e : Nat) (s : Shape) : List RdReq :=
  if eScaleRule e = 0 then []
  else
    let l := max 1 (unitLen e s.run)
    let first (i : Nat) : Nat := ceilDiv (k.start i * s.run) l
    (List.range k.n).flatMap fun i =>
      let b := if i + 1 = k.n then s.total / l else first (i + 1)
      if first i < b then arrayReads .scale (8 * scBytes e) (eScBase e) i (first i) b fun u => u * l else []

end Sys2Proof.Machine
end

