-- ==== Sys2Proof/Machine/Contract.lean ====
section
/-!
DEFINITION. Contract.lean: the thresher (05): terms, the exact accumulator, the wide channels, outputs, counts and notes.
-/
namespace Sys2Proof.Machine

/-! ### The accumulator (R148, R151, R152), shared with LINKREDUCE (06) -/

/-- acc_add of R148 on an integer at the accumulator's least significant bit. -/
def accAdd (a : Acc) (c : Int) : Acc :=
  let hi : Int := 2 ^ 127 - 1
  let lo : Int := -(2 ^ 127)
  if c > hi then { s := a.s + hi, fl := a.fl ||| 8 }
  else if c < lo then { s := a.s + lo, fl := a.fl ||| 8 }
  else { a with s := a.s + c }

/-- Sets flags of Table 5.4. -/
def accFlag (a : Acc) (fl : Nat) : Acc := { a with fl := a.fl ||| fl }

/-- The flags of a non-finite term (R153): inv 1, pinf 2, ninf 4. -/
def termFlag (v : Val) : Nat := match v with | .nan => 1 | .inf neg => if neg then 4 else 2 | .fin .. => 0

/-- Saturated sum and flags at the end (acc_final of R148). -/
def accFinal (a : Acc) : Acc :=
  let hi : Int := 2 ^ 127 - 1
  let lo : Int := -(2 ^ 127)
  if a.s > hi then { s := hi, fl := a.fl ||| 8 } else if a.s < lo then { s := lo, fl := a.fl ||| 8 } else a

/-- The value of an accumulator (Table 5.5). -/
def accVal (a : Acc) (exp : Int) : Val :=
  if bitAt a.fl 0 || (bitAt a.fl 1 && bitAt a.fl 2) then .nan
  else if bitAt a.fl 1 then .inf false
  else if bitAt a.fl 2 then .inf true
  else let z := (accFinal a).s; .fin (decide (z < 0)) z.natAbs exp

/-- Whether an output's value is taken from the sum with ovf set. -/
def accOvf (a : Acc) : Bool := a.fl % 8 == 0 && bitAt (accFinal a).fl 3

/-- The output of an accumulator (R152): converted under RNE; ovf counts as a clip. -/
def accOut (dst : Nat) (ovfInf : Bool) (exp : Int) (a : Acc) : Conv :=
  let c := convert dst { rnd := 0, ovfInf } (accVal a exp)
  { c with clip := c.clip || accOvf a }

/-! ### Terms -/

/-- An output element on its way: its accumulator with its flag byte (Table 5.4). -/
structure Output where
  acc : Acc := {}
  /-- the binary32 sum of a wide channel, none before the first product -/
  wide : Option Val := none
  deriving DecidableEq, Repr

/-- The psn flag of an output (Table 5.4). -/
def Output.psn (o : Output) : Bool := bitAt o.acc.fl 4

/-- Sets the psn flag when a factor or an index arrived poisoned (Table 5.4, R155). -/
def Output.poison (o : Output) (psn : Bool) : Output := if psn then { o with acc := accFlag o.acc 16 } else o

/-- A part's share of a CONTRACT (Table 7.1, R162): of one plane, one slice of the output row and a group of index positions. -/
structure Share where
  part : Nat
  pl : Nat
  /-- output columns c0 to c1 − 1 of a row-sum; a row-dot takes whole rows -/
  c0 : Nat
  c1 : Nat
  /-- index positions p0 to p1 − 1 -/
  p0 : Nat
  p1 : Nat
  deriving DecidableEq, Repr

/-- What a CONTRACT reads: its values with their poison, by share. -/
structure Terms where
  /-- index of row r -/
  ix : Nat → Nat → Idx
  /-- element j of row r, and its sheaf's scale -/
  c : Nat → Nat → Nat → Val × Bool
  s : Nat → Nat → Nat → Val × Bool
  /-- operand element -/
  w : Nat → Nat → Val × Bool

/-- A term's value: NaN for an invalid one, else an infinity or an exact product (R153). -/
def term (w s c : Val) : Val := valMul (valMul w s) c

/-- Whether a term is invalid, and its sub code (Table 11.4): a NaN factor, or 0 × ∞ (R153). A term with a NaN factor and a
0 × ∞ pair is reported as a NaN factor (DESIGN CHOICE, log 42). -/
def termInvalid (w s c : Val) : Option Nat :=
  if valIsNan w || valIsNan s || valIsNan c then some 0
  else if (!valFinite w || !valFinite s || !valFinite c) && (valIsZero w || valIsZero s || valIsZero c) then some 1
  else none

/-- A term judged on its factors (R153): it is NaN exactly when invalid. -/
def judged (w s c : Val) : Val :=
  if (termInvalid w s c).isSome then .nan
  else if valFinite w && valFinite s && valFinite c then term w s c
  else .inf ((valNeg w != valNeg s) != valNeg c)

/-- Adds one term to an output of a row-sum. -/
def addTerm (exp : Int) (o : Output) (t : Val) (psn : Bool) : Output :=
  let o := o.poison psn
  { o with acc := if valFinite t then accAdd o.acc (rneAt t exp) else accFlag o.acc (termFlag t) }

/-- A value rounded to binary32 under RNE, with overflow to infinity (R156). -/
def f32Round (v : Val) : Val := valueOf 0 (convert 0 { rnd := 0, ovfInf := true } v).code

/-- Adds one product to a wide channel (R156). DEDUCED, log 31. -/
def addWide (o : Output) (w c : Val) (psn : Bool) : Output :=
  let p := f32Round (valMul w c)
  { o.poison psn with wide := some (match o.wide with | none => p | some x => f32Round (valAdd x p)) }

/-- One sheaf of a row-dot (R149): its exact partial times its scale, or the flags of its non-finite terms. -/
def addSheaf (exp : Int) (o : Output) (s : Val × Bool) (ts : List ((Val × Bool) × (Val × Bool))) : Output :=
  let js := ts.map fun (q, c) => judged q.1 s.1 c.1
  let psn := s.2 || ts.any fun (q, c) => q.2 || c.2
  let o := o.poison psn
  if js.all valFinite then
    let t := ts.foldl (fun a (q, c) => valAdd a (valMul q.1 c.1)) (Val.fin false 0 0)
    { o with acc := accAdd o.acc (rneAt (valMul s.1 t) exp) }
  else { o with acc := js.foldl (fun a t => accFlag a (termFlag t)) o.acc }

/-- Elements per sheaf: the whole row in the wide channels (R156). -/
def sheafLen (e : Nat) (run : Nat) : Nat := if eGrp e = 0 then max 1 run else grpLen (eGrp e)

/-- Output slices of a plane (R162): a row-sum's row is cut into slices of 16,384 elements. -/
def slicesPer (e : Nat) (s : Shape) : Nat := if eCform e = 2 then 1 else max 1 (ceilDiv s.run 16384)

/-- Read request slots of a CONTRACT, before merging (Table 7.1). -/
def contractSlots (e : Nat) (s : Shape) : Nat :=
  let w := eSrcW e
  let planes := s.cnt2 * s.cnt3
  let ng := s.run / sheafLen e s.run
  let idx := ceilDiv (4 * if eIdxShare e then s.cnt1 else s.rows) 256
  let opnd := if eCform e = 1 then 0
    else ceilDiv (fmtWidth (eOpndFmt e) * planes * (if eCform e = 2 then s.run else s.cnt1)) 2048
  let sc := if eScaleRule e = 0 then 0 else s.rows * ceilDiv (ng * scBytes e) 256
  s.rows * ceilDiv (w * s.run) 2048 + idx + opnd + sc

/-- The shares of n parts (Table 7.1, DEDUCED, log 8): with as many pieces as parts or more, a part takes consecutive pieces;
with fewer, the index positions of each piece are divided into groups, one part each. -/
def sharesOf (n : Nat) (e : Nat) (s : Shape) : List Share :=
  let sl := slicesPer e s
  let m := s.cnt2 * s.cnt3 * sl
  let piece (k part p0 p1 : Nat) : Share :=
    { part, pl := k / sl, c0 := if eCform e = 2 then 0 else k % sl * 16384
      c1 := if eCform e = 2 then s.run else min s.run (k % sl * 16384 + 16384), p0, p1 }
  if n ≤ m then (List.range m).map fun k => piece k (((k + 1) * n - 1) / max 1 m) 0 s.cnt1
  else
    let groups (k : Nat) : Nat := max 1 (min s.cnt1 ((k + 1) * n / max 1 m - k * n / max 1 m))
    (List.range m).flatMap fun k =>
      let first := ((List.range k).map groups).sum
      let g := groups k
      (List.range g).map fun i => piece k (first + i) (i * s.cnt1 / g) ((i + 1) * s.cnt1 / g)

/-- The shares of a CONTRACT (Table 7.1). -/
def contractShares (bays e : Nat) (s : Shape) : List Share := sharesOf (max 1 (min bays (ceilDiv (contractSlots e s) 1024))) e s

/-- The number of parts that shares name. -/
def shareParts (l : List Share) : Nat := (l.map (·.part)).foldl max 0 + 1

/-- Whether a share takes in row p of a plane, and column j. -/
def Share.has (x : Share) (pl p j : Nat) : Bool :=
  x.pl == pl && decide (x.p0 ≤ p) && decide (p < x.p1) && decide (x.c0 ≤ j) && decide (j < x.c1)

/-- What one share adds to an output of a row-sum, over its positions in order (R149). -/
def shareSum (e : Nat) (t : Terms) (s : Shape) (k : Nat) (x : Share) (j : Nat) (o : Output) : Output :=
  (List.range (x.p1 - x.p0)).foldl (fun o i =>
    let r := x.pl * s.cnt1 + x.p0 + i
    let y := t.ix k r
    if y.psn then o.poison true
    else if !y.ok (eIdxLim e) then o
    else
      let c := t.c k r j
      let sc := t.s k r (j / sheafLen e s.run)
      let w := if eCform e = 1 then (Val.fin false 1 0, false) else t.w k r
      if eWide e then addWide o w.1 c.1 (w.2 || c.2)
      else addTerm (eAccExpC e) o (judged w.1 sc.1 c.1) (w.2 || sc.2 || c.2)) o

/-- The output element of one row of a row-dot (R149). -/
def rowDotOut (e : Nat) (t : Terms) (s : Shape) (k pl p : Nat) : Output :=
  let r := pl * s.cnt1 + p
  let x := t.ix k r
  if x.psn then ({} : Output).poison true
  else if !x.ok (eIdxLim e) then {}
  else
    let g := sheafLen e s.run
    if eWide e then
      (List.range s.run).foldl (fun o j =>
        let q := t.w k (pl * s.run + j)
        let c := t.c k r j
        addWide o q.1 c.1 (q.2 || c.2)) {}
    else
      (List.range (s.run / g)).foldl (fun o i =>
        addSheaf (eAccExpC e) o (t.s k r i) ((List.range g).map fun j => (t.w k (pl * s.run + i * g + j), t.c k r (i * g + j)))) {}

/-- Outputs of one plane. -/
def outLen (e : Nat) (s : Shape) : Nat := if eCform e = 2 then s.cnt1 else s.run

/-- Output element n of a CONTRACT (R147, R149, R150): of a row-sum, what every share of its column adds. -/
def contractOut (e : Nat) (s : Shape) (t : Terms) (shs : List Share) (n : Nat) : Output :=
  let pl := n / outLen e s
  let k := n % outLen e s
  if eCform e = 2 then
    match shs.zipIdx.find? fun (x, _) => x.has pl k 0 with
    | some (_, i) => rowDotOut e t s i pl k
    | none => {}
  else shs.zipIdx.foldl (fun o (x, i) => if x.pl == pl && decide (x.c0 ≤ k) && decide (k < x.c1) then shareSum e t s i x k o else o) {}

/-- Every output element, plane by plane (R147). -/
def contractOuts (e : Nat) (s : Shape) (t : Terms) (shs : List Share) : List Output :=
  (List.range (s.cnt2 * s.cnt3 * outLen e s)).map (contractOut e s t shs)

/-- The index of every row (R133), as each share that takes it in has read it: row, part, index, in the order of rows. -/
def shareIndices (s : Shape) (t : Terms) (shs : List Share) : List (Nat × Nat × Idx) :=
  (List.range s.rows).flatMap fun r =>
    shs.zipIdx.filterMap fun (x, k) =>
      if x.pl == r / s.cnt1 && decide (x.p0 ≤ r % s.cnt1) && decide (r % s.cnt1 < x.p1) then some (r, x.part, t.ix k r) else none

/-- The indices of the rows, each once: as the share of its first column has read it. -/
def rowIdxOnce (s : Shape) (t : Terms) (shs : List Share) : List Idx :=
  (List.range s.rows).map fun r =>
    match shs.zipIdx.find? fun (x, _) => x.has (r / s.cnt1) (r % s.cnt1) 0 with
    | some (_, k) => t.ix k r
    | none => { x := 0, psn := true }

/-- The conversion of an output. -/
def outConv (e : Nat) (o : Output) : Conv :=
  if eWide e then
    match o.wide with
    | none => { code := 0 }
    | some v => convert (eDstFmt e) { rnd := 0, ovfInf := eOvfInf e } v
  else accOut (eDstFmt e) (eOvfInf e) (eAccExpC e) o.acc

/-- Whether an output is not finite: it came from inv, pinf or ninf, or a wide sum is NaN or infinite (R157, Table 5.8): judged
on the binary32 sum, not on the element it is converted to (DESIGN CHOICE, log 42). -/
def outNonfin (e : Nat) (o : Output) : Bool :=
  if eWide e then (match o.wide with | none => false | some v => !valFinite v) else o.acc.fl % 8 != 0

/-- What a CONTRACT produces, with the counts of Table 5.8. -/
def contractMade (e : Nat) (ix : List Idx) (os : List Output) : Made :=
  let cs := os.map fun o => (o, outConv e o)
  let sound := cs.filter fun (o, _) => !o.psn
  { es := cs.map fun (o, c) => { code := c.code, psn := o.psn || c.gen }
    elem := sound.length, clip := (sound.filter fun (_, c) => c.clip).length
    degen := (ix.filter fun x => x.skipped (eIdxLim e)).length
    nonfin := (sound.filter fun (o, _) => outNonfin e o).length, sound := cs.map fun (o, _) => !o.psn }

/-! ### Notes (R154, R157) -/

/-- First of a list that answers something. -/
def firstSome {α β : Type} (l : List α) (f : α → Option β) : Option β :=
  match l with
  | [] => none
  | x :: r => match f x with | some y => some y | none => firstSome r f

/-- Whether a term is invalid and raises a note: its sub code; those of poisoned outputs raise none (R154). -/
def noteTerm (e : Nat) (s : Shape) (t : Terms) (os : List Output) (k r j : Nat) : Option Nat :=
  let pl := r / s.cnt1
  if !(t.ix k r).ok (eIdxLim e) || (os.getD (pl * outLen e s + if eCform e = 2 then r % s.cnt1 else j) {}).psn then none
  else
    let w := if eCform e = 1 then (Val.fin false 1 0, false) else if eCform e = 2 then t.w k (pl * s.run + j) else t.w k r
    let sc := if eWide e then (Val.fin false 1 0, false) else t.s k r (j / sheafLen e s.run)
    termInvalid w.1 sc.1 (t.c k r j).1

/-- The first invalid term, as (sub, pl, p, j), in the order of (pl, p, j). -/
def firstInvalid (e : Nat) (s : Shape) (t : Terms) (shs : List Share) (os : List Output) : Option (Nat × Nat × Nat × Nat) :=
  firstSome (List.range s.rows) fun r => firstSome (List.range s.run) fun j =>
    match shs.zipIdx.find? fun (x, _) => x.has (r / s.cnt1) (r % s.cnt1) j with
    | some (_, k) => (noteTerm e s t os k r j).map fun sub => (sub, r / s.cnt1, r % s.cnt1, j)
    | none => none

/-- The parts that hold an invalid term that raises a note. -/
def invalidParts (e : Nat) (s : Shape) (t : Terms) (shs : List Share) (os : List Output) : List Nat :=
  (shs.zipIdx.filter fun (x, k) => (List.range (x.p1 - x.p0)).any fun i => (List.range (x.c1 - x.c0)).any fun j =>
    (noteTerm e s t os k (x.pl * s.cnt1 + x.p0 + i) (x.c0 + j)).isSome).map fun (x, _) => x.part

/-- The parts that feed an output that a test picks, those poisoned aside. -/
def outParts (e : Nat) (s : Shape) (shs : List Share) (os : List Output) (p : Output → Bool) : List Nat :=
  let picks (n : Nat) : Bool := match os[n]? with | some o => !o.psn && p o | none => false
  (shs.filter fun x =>
    let l := outLen e s
    if eCform e = 2 then (List.range (x.p1 - x.p0)).any fun i => picks (x.pl * l + x.p0 + i)
    else (List.range (x.c1 - x.c0)).any fun j => picks (x.pl * l + x.c0 + j)).map (·.part)

/-- The lowest-numbered bay of the parts through which an instruction raised an event (R380). -/
def partsBay (f : Flight) (l : List Nat) : Nat := (l.map f.bayOf).foldl min 0xFFFF

/-- The first output, in stream order, that a test picks, among those not poisoned. -/
def firstOut (os : List Output) (f : Output → Bool) : Option Nat :=
  firstSome os.zipIdx fun (o, n) => if !o.psn && f o then some n else none

/-- Raises the notes of a CONTRACT for an instruction (Table 5.6). DEDUCED, log 31. -/
def contractNotes (st : State) (f : Flight) (s : Shape) (t : Terms) (shs : List Share) (os : List Output) : State :=
  let e := f.raw
  let n := outLen e s
  let ev (src sub detail : Nat) (ps : List Nat) (st : State) : State :=
    raise st { src, sub, unit := partsBay f ps, inst := some (f.q, f.pos), detail }
  let inv := firstInvalid e s t shs os
  let both (o : Output) : Bool := o.acc.fl % 8 == 6
  let opp := if eWide e || inv.isSome then none else firstOut os both
  let st := match inv, opp with
    | some (sub, pl, p, j), _ => ev 0x14 sub (pl + p * 2 ^ 40 + j * 2 ^ 60) (invalidParts e s t shs os) st
    | none, some k =>
      let p := if eCform e = 2 then k % n else s.cnt1
      let j := if eCform e = 2 then s.run else k % n
      ev 0x14 2 (k / n + p * 2 ^ 40 + j * 2 ^ 60) (outParts e s shs os both) st
    | none, none => st
  let ovf (o : Output) : Bool := accOvf o.acc
  match if eWide e then none else firstOut os ovf with
  | some k => ev 0x15 0 (k / n + (k % n) * 2 ^ 40) (outParts e s shs os ovf) st
  | none => st

/-- The index note of an instruction (R135, Table 5.6): the first index out of range, of rows with their parts and indices in the
order of rows; its unit is of the parts that found one (R380). DEDUCED, log 20. -/
def indexNote (st : State) (f : Flight) (side : Shape) (l : List (Nat × Nat × Idx)) : State :=
  match l.filter fun x => x.2.2.outOfRange (eIdxLim f.raw) with
  | [] => st
  | (r, i, x) :: rest =>
    raise st { src := 0x16, unit := partsBay f (i :: rest.map (·.2.1)), inst := some (f.q, f.pos)
               detail := r / side.cnt1 + (r % side.cnt1) * 2 ^ 40 + x.x * 2 ^ 60 }

/-- Rows with the parts that read their indices. -/
def partIndices (part : Nat → Nat) (ix : List Idx) : List (Nat × Nat × Idx) := ix.zipIdx.map fun (x, r) => (r, part r, x)

/-- The first element that an index condition affects: out of range, or poisoned when `psnToo` (Table 7.4, R242); an index
that planes share lies in every slice. -/
def indexBadFrom (e : Nat) (side : Shape) (psnToo : Bool) (ix : List Idx) : Option Nat :=
  firstSome ix.zipIdx fun (x, r) =>
    if x.outOfRange (eIdxLim e) || (psnToo && x.psn) then
      some (if eIdxShare e && side.cnt2 * side.cnt3 != 1 then 0 else r * side.run)
    else none

/-! ### Reads -/

/-- Gives the reads of share k their part and their key. -/
def shareReads (k : Nat) (x : Share) (l : List RdReq) : List RdReq := l.map fun r => { r with part := x.part, grp := k }

/-- Index reads of a CONTRACT (R133): each share reads the positions it takes in. -/
def shareIndexReads (e : Nat) (s : Shape) (shs : List Share) : List RdReq :=
  shs.zipIdx.flatMap fun (x, k) =>
    let a := if eIdxShare e then 0 else x.pl * s.cnt1
    shareReads k x (arrayReads .index 32 (eIdxBase e) 0 (a + x.p0) (a + x.p1) fun _ => 0)

/-- Operand reads (R145): the weights of each share's positions, or its plane's query. -/
def operandReads (e : Nat) (s : Shape) (shs : List Share) : List RdReq :=
  if eCform e = 1 then []
  else
    let w := fmtWidth (eOpndFmt e)
    shs.zipIdx.flatMap fun (x, k) =>
      if eCform e = 2 then shareReads k x (arrayReads .operand w (eOpndBase e) 0 (x.pl * s.run) ((x.pl + 1) * s.run) fun _ => 0)
      else shareReads k x (arrayReads .operand w (eOpndBase e) 0 (x.pl * s.cnt1 + x.p0) (x.pl * s.cnt1 + x.p1) fun _ => 0)

/-- The first row of each of a share's merged runs (R138): the rows of a cut row do not lie end to end. -/
def shareHead (e : Nat) (s : Shape) (t : Nat → Idx) (x : Share) (r : Nat) : Nat :=
  let bytes := if x.c0 = 0 ∧ x.c1 = s.run then wholeBytes (eSrcW e) s.run else 0
  let a := x.pl * s.cnt1 + x.p0
  let glue (i : Nat) : Bool := i != 0 && bytes != 0 && s.step1 == (bytes : Int) && (t (a + i - 1)).ok (eIdxLim e) && (t (a + i)).ok (eIdxLim e)
    && (t (a + i)).x == (t (a + i - 1)).x + 1
  a + (runHeads glue (x.p1 - x.p0)).getD (r - a) (r - a)

/-- A row's coordinates by its index (R134). -/
def idxCoords (s : Shape) (i : Idx) (r : Nat) : Int × Int × Int :=
  let (_, k2, k3) := srcRowK s r
  ((i.x : Int), k2, k3)

/-- The key of a share's row: of its run. -/
def shareKey (s : Shape) (k r : Nat) : Nat := k * s.rows + r

/-- The rows of a share whose indices are good. -/
def goodRows (e : Nat) (s : Shape) (t : Nat → Idx) (x : Share) : List Nat :=
  ((List.range (x.p1 - x.p0)).map (x.pl * s.cnt1 + x.p0 + ·)).filter fun r => (t r).ok (eIdxLim e)

/-- Row reads of a CONTRACT: each share reads its columns of its rows (R162). -/
def shareRowReads (e : Nat) (s : Shape) (ix : Nat → Nat → Idx) (shs : List Share) : List RdReq :=
  let w := eSrcW e
  shs.zipIdx.flatMap fun (x, k) =>
    let spans := joinSpans s.run ((goodRows e s (ix k) x).map fun r =>
      let (k1, k2, k3) := idxCoords s (ix k r) r
      let b := srcRowBit s w k1 k2 k3
      { row := r, lo := ((b + w * x.c0).toNat) / 8, hi := ((b + w * x.c1).toNat + 7) / 8, bit := (b + w * x.c0).toNat, e0 := x.c0
        glue := shareHead e s (ix k) x r != r }) []
    (runReads .source w spans).map fun q => { q with part := x.part, grp := shareKey s k q.grp }

/-- Scale u of the side stream for sheaf g of a row (R146). -/
def scaleNo (e : Nat) (s : Shape) (i : Idx) (r g : Nat) : Nat := (r / s.cnt1 * eIdxLim e + i.x) * (s.run / sheafLen e s.run) + g

/-- Scale reads (R146): merged as the rows are (R138). -/
def contractScaleReads (e : Nat) (s : Shape) (ix : Nat → Nat → Idx) (shs : List Share) : List RdReq :=
  if eScaleRule e = 0 then []
  else
    let b := scBytes e
    let l := sheafLen e s.run
    shs.zipIdx.flatMap fun (x, k) =>
      let spans := joinSpans 0 ((goodRows e s (ix k) x).map fun r =>
        let lo := eScBase e + scaleNo e s (ix k r) r (x.c0 / l) * b
        { row := r, lo, hi := eScBase e + scaleNo e s (ix k r) r (ceilDiv x.c1 l) * b, bit := 8 * lo, e0 := 0
          glue := shareHead e s (ix k) x r != r }) []
      spans.flatMap fun g => (cutRun (g.hi - g.lo)).map fun (off, len) =>
        { side := .scale, grp := shareKey s k g.grp, ord := (g.lo + off - eScBase e) / b, elem := 0, part := x.part, va := g.lo + off, len }

/-- The indices that shares have read. -/
def landedIndex (e : Nat) (s : Shape) (land : List Landed) (k r : Nat) : Idx :=
  let v := landedBits land .index k (8 * (eIdxBase e + 4 * if eIdxShare e then r % s.cnt1 else r)) 32
  { x := v.1, psn := v.2 }

/-- The values a CONTRACT has read. -/
def contractTerms (st : State) (e : Nat) (s : Shape) (shs : List Share) (land : List Landed) : Terms :=
  let w := eSrcW e
  let cb := if fmtIsCb (eSrcFmt e) then cbOf st e (eSrcFmt e) else []
  let ix := landedIndex e s land
  let key (k r : Nat) : Nat := match shs[k]? with | some x => shareKey s k (shareHead e s (ix k) x r) | none => 0
  { ix
    c := fun k r j =>
      let (k1, k2, k3) := idxCoords s (ix k r) r
      let v := landedBits land .source (key k r) (srcRowBit s w k1 k2 k3 + w * j).toNat w
      (narrowVal cb (eSrcFmt e) v.1, v.2)
    s := fun k r g =>
      if eScaleRule e = 0 then (Val.fin false 1 0, false) else landedScale e land (key k r) (scaleNo e s (ix k r) r g)
    w := fun k n =>
      let ow := fmtWidth (eOpndFmt e)
      let v := landedBits land .operand k (8 * eOpndBase e + ow * n) ow
      (valueOf (eOpndFmt e) v.1, v.2) }

/-- The accumulators that a part's loft holds once its terms are all in (R151, R162): of its last share, each column or row of it, with what
the share has added. A wide one adds in binary32 and holds none (R157). -/
def partAccs (e : Nat) (s : Shape) (t : Terms) (shs : List Share) (i : Nat) : List Acc :=
  if eWide e then []
  else match (shs.zipIdx.filter fun (x, _) => x.part == i).getLast? with
  | none => []
  | some (x, k) =>
    if eCform e = 2 then (List.range (x.p1 - x.p0)).map fun p => (rowDotOut e t s k x.pl (x.p0 + p)).acc
    else (List.range (x.c1 - x.c0)).map fun j => (shareSum e t s k x (x.c0 + j) {}).acc

/-- A row that adds nothing yet. -/
def skipIdx : Idx := { x := 0xFFFFFFFF, psn := false }

/-- The accumulators of part i of a CONTRACT, as they stand while its rows come in: a row adds once every read of it and of its scales has
returned, or at once when its index arrived poisoned. DESIGN CHOICE, log 24: R149 defines which contributions exist, not when they are
added. -/
def partAccsNow (st : State) (f : Flight) (i : Nat) : List Acc :=
  let e := f.raw
  let s := eSrc e
  let shs := contractShares st.cfg.bays e s
  let t := contractTerms st e s shs f.land
  let here (k r : Nat) : Bool :=
    match shs[k]? with
    | none => false
    | some x =>
      let key := shareKey s k (shareHead e s (t.ix k) x r)
      let of (q : RdReq) : Bool := (q.side == .source || q.side == .scale) && q.grp == key
      !f.todo.any of && !st.reads.any fun x => x.flight == f.id && of x.req
  partAccs e s { t with ix := fun k r => if f.stage == .second && here k r then t.ix k r else skipIdx } shs i

end Sys2Proof.Machine
end

