-- ==== Sys2Proof/Machine/DataOps.lean ====
section
/-!
DEFINITION. DataOps.lean: the data instructions MOVE to CONTRACT (02 to 05). A command works on the instruction of an entry:
it splits and places it, issues what may be issued, and once its reads have landed produces its results (DESIGN CHOICE, log 7).
-/
namespace Sys2Proof.Machine

/-- Request slots of the busier side (Table 7.1). -/
def busierSlots (e : Nat) : Nat :=
  let d := destSlots (eDst e) (eWalk e) (eDstW e) (eCt e)
  if opOf e = some .fill then d else max d (srcSlots (eSrc e) (eSrcW e) (eCt e))

/-- The cut of MOVE, FILL, CAST, PACK, UNPACK, GATHER and SCATTER. -/
def planCut (bays e : Nat) : Cut := loopCut bays (busierSlots e) (eSrc e) (eSrcW e) (eCt e)

/-- The cut of a flight that has been placed: its parts are counted. -/
def flightCut (s : State) (f : Flight) : Cut := { planCut s.cfg.bays f.raw with n := f.parts.length }

/-- Source elements of a flight in destination order. -/
def landedStream (k : Cut) (f : Flight) : List Elem :=
  let e := f.raw
  let s := eSrc e
  sourceStream s (eDst e) (eSrcW e) (ePad e) (eCt e) (k.grp (srcMerge s (eSrcW e) (eCt e))) f.land

/-- Byte ranges of a flight's source reads. -/
def sourceRanges (k : Cut) (e : Nat) : List (Nat × Nat) := rdRanges (plainReads k (eSrc e) (eSrcW e) (eCt e))

/-- Produces the results of an instruction with an ordinary destination walk. -/
def produceWalk (s : State) (f : Flight) (k : Cut) (m : Made) (reads scales : List (Nat × Nat)) : State :=
  let e := f.raw
  let d := eDst e
  produce s f.id m (k.ofElem (eSrc e) d (eCt e)) d (eDstW e) (destWrites d (eWalk e) (eDstW e) (eCt e) m.es) reads scales

/-- The form MOVE, CAST, PACK and UNPACK share: `extra` answers the reads beside the source's, `made` the results. -/
def workPlain (s : State) (q pos : Nat) (o : Op) (extra : Cut → Nat → List RdReq) (made : State → Cut → Flight → List Elem → Made) : Out :=
  workOn s q pos o
    (fun s x =>
      let k := planCut s.cfg.bays x.raw
      placeEntry s q pos k.n (plainReads k (eSrc x.raw) (eSrcW x.raw) (eCt x.raw) ++ extra k x.raw))
    (fun s f =>
      if readyAt s f .first then
        let k := flightCut s f
        produceWalk s f k (made s k f (markLost f (k.ofElem (eSrc f.raw) (eDst f.raw) (eCt f.raw)) (landedStream k f)))
          (sourceRanges k f.raw) (rdRanges (extra k f.raw))
      else s)

/-- MOVE (R337). -/
def execMove (q pos : Nat) (s : State) : Out := workPlain s q pos .move (fun _ _ => []) fun _ _ _ es => copyMade es

/-- FILL (R338): pad_value everywhere, without a read. -/
def execFill (q pos : Nat) (s : State) : Out :=
  workOn s q pos .fill
    (fun s x => placeEntry s q pos (planCut s.cfg.bays x.raw).n [])
    (fun s f =>
      if readyAt s f .first then
        let e := f.raw
        produceWalk s f (flightCut s f)
          (copyMade (List.replicate (eDst e).total { code := ePad e % 2 ^ eSrcW e, pad := true })) [] []
      else s)

/-- CAST (R80 to R93). -/
def execCast (q pos : Nat) (s : State) : Out := workPlain s q pos .cast (fun _ _ => []) fun _ _ f es => castMade f.raw es

/-- PACK (R95 to R117). -/
def execPack (q pos : Nat) (s : State) : Out := workPlain s q pos .pack (fun _ _ => []) fun s _ f es => packMade s f.raw (eDst f.raw) es

/-- UNPACK (R118 to R121). -/
def execUnpack (q pos : Nat) (s : State) : Out :=
  workPlain s q pos .unpack (fun k e => unpackScaleReads k e (eSrc e)) fun s k f es =>
    unpackMade s f.raw (eSrc f.raw) f.land (k.ofElem (eSrc f.raw) (eDst f.raw) false) es

/-! ### The gleaner (R133 to R139) -/

/-- A gathered row (Table 5.2): as read, or pad_value, poisoned when its index is. -/
def gatherRow (e : Nat) (s : Shape) (land : List Landed) (ix : List Idx) (heads : List Nat) (r : Nat) : List Elem :=
  let x := ix.getD r { x := 0, psn := true }
  if x.ok (eIdxLim e) then
    let (k1, k2, k3) := idxRowK s ix r
    (List.range s.run).map fun i => srcElem s (eSrcW e) (ePad e) land (heads.getD r r) k1 k2 k3 i
  else List.replicate s.run { code := ePad e % 2 ^ eSrcW e, pad := true, psn := x.psn }

/-- GATHER (R139): its indices, then its rows, then its writes. -/
def execGather (q pos : Nat) (s : State) : Out :=
  workOn s q pos .gather
    (fun s x =>
      let k := planCut s.cfg.bays x.raw
      placeEntry s q pos k.n (indexReads k x.raw (eSrc x.raw) (eSrc x.raw).run))
    (fun s f =>
      let e := f.raw
      let src := eSrc e
      let k := flightCut s f
      let ix := rowIndices e src k.part f.land
      if readyAt s f .first then
        let g := match indexBadFrom e src false ix with | some n => flightBad f n | none => f
        pump (indexNote (s.setF { g with stage := .second, todo := numbered (idxRowReads k e src (eSrcW e) ix) }) f src
          (partIndices k.part ix)) f.id
      else if readyAt s f .second then
        let heads := idxHeads e src (eSrcW e) k.part ix
        produceWalk s f k (copyMade ((List.range src.rows).flatMap (gatherRow e src f.land ix heads)))
          (rdRanges (idxRowReads k e src (eSrcW e) ix) ++ rdRanges (indexReads k e src src.run)) []
      else s)

/-- Part of an indexed destination's row: of its first element. -/
def destRowPart (k : Cut) (s d : Shape) (r : Nat) : Nat := k.part (r * d.run / max 1 s.run)

/-- Writes of an indexed destination (R134, R138, R140): rows of good indices only. -/
def indexedWrites (e : Nat) (d : Shape) (w : Nat) (part : Nat → Nat) (ix : List Idx) (es : List Elem) : List WrReq :=
  let heads := idxHeads e d w part ix
  let rows := (chunk d.run d.rows es).zipIdx.filterMap fun (es, r) =>
    if (ix.getD r { x := 0, psn := true }).ok (eIdxLim e) then
      let (k1, k2, k3) := idxRowK d ix r
      some (r, (d.base + loopOffset d k1 k2 k3).toNat, heads.getD r r != r, rowBytes w es)
    else none
  (joinRows rows []).flatMap fun (a, row, bs) => runWrites .dest w a (row * d.run) bs

/-- SCATTER (R139, R140). -/
def execScatter (q pos : Nat) (s : State) : Out :=
  workOn s q pos .scatter
    (fun s x =>
      let e := x.raw
      let k := planCut s.cfg.bays e
      placeEntry s q pos k.n (indexReads k e (eDst e) (eSrc e).run ++ plainReads k (eSrc e) (eSrcW e) false))
    (fun s f =>
      if readyAt s f .first then
        let e := f.raw
        let d := eDst e
        let k := flightCut s f
        let part := destRowPart k (eSrc e) d
        let ix := rowIndices e d part f.land
        let g := match indexBadFrom e d true ix with | some n => flightBad f n | none => f
        let es := landedStream k f
        produce (indexNote (s.setF g) f d (partIndices part ix)) f.id (copyMade es) (k.ofElem (eSrc e) d false) d (eDstW e)
          (indexedWrites e d (eDstW e) part ix es) (sourceRanges k e ++ rdRanges (indexReads k e d (eSrc e).run)) []
      else s)

/-! ### SCATTER_ADD (R141 to R143) -/

/-- scatter_add_elem of R141: the code of old + src. -/
def scatterAddElem (e n srcCode oldCode : Nat) : Nat :=
  (convert (eDstFmt e) (roundOf e n) (valAdd (valueOf (eDstFmt e) oldCode) (valueOf (eSrcFmt e) srcCode))).code

/-- The byte address of destination element n, when its row is written. -/
def addAddr (e : Nat) (d : Shape) (ix : List Idx) (n : Nat) : Option Nat :=
  let r := n / d.run
  if (ix.getD r { x := 0, psn := true }).ok (eIdxLim e) then
    let (k1, k2, k3) := idxRowK d ix r
    some (d.base + loopOffset d k1 k2 k3 + eDstW e / 8 * (n % d.run : Nat)).toNat
  else none

/-- The next addition at or after element n: its number and address. -/
def nextAdd (e : Nat) (d : Shape) (ix : List Idx) (n : Nat) : Option (Nat × Nat) :=
  firstSome ((List.range (d.total - n)).map (n + ·)) fun i => (addAddr e d ix i).map fun a => (i, a)

/-- Granules, by virtual address, that an element's bytes touch, the lower first (R267). -/
def addGranules (w a : Nat) : List Nat := granulesOf a (w / 8)

/-- Byte ranges of every addition. -/
def addRanges (e : Nat) (d : Shape) (ix : List Idx) : List (Nat × Nat) :=
  (List.range d.rows).filterMap fun r => (addAddr e d ix (r * d.run)).map fun a => (a, a + d.run * (eDstW e / 8))

/-- The addition of element n, whose granules have landed: its write (R142, R143). Bytes of a granule that faulted are not
written (R249). -/
def addWrite (s : State) (f : Flight) (ix : List Idx) (n a : Nat) : State :=
  let e := f.raw
  let w := eDstW e
  let k := flightCut s f
  let x := (landedStream k { f with land := f.land.filter (·.side == .source) }).getD n { code := 0 }
  let old := (List.range (w / 8)).map fun i => landedByte f.land .dest ((a + i) / 256) (a + i)
  let code := scatterAddElem e n x.code (leNat (old.map Prod.fst))
  let psn := x.psn || old.any (·.2)
  let held (g : Nat) : Bool := s.locks.any fun l => l.flight == f.id && l.va == g
  let bs := ((leBytes code (w / 8)).map fun b => (b, psn)).zipIdx.filter fun (_, i) => held ((a + i) / 256)
  let clear (f : Flight) : Flight := { f with seq := n + 1, land := f.land.filter (·.side != .dest) }
  match bs with
  | [] => s.setF (clear f)
  | (_, i) :: _ =>
    let bytes := bs.map Prod.fst
    let req : WrReq := { side := .dest, ord := n, elem := n, part := 0, va := a + i, data := bytes.map Prod.fst
                         psn := blockPsn (a + i) bytes, lock := true }
    let meets := rangesMeet (addRanges e (eDst e) ix) (sourceRanges k e ++ rdRanges (indexReads k e (eDst e) (eSrc e).run))
    let (s, req) := freeWrite s (fun _ => meets) req
    s.setF { clear f with wtodo := f.wtodo ++ [req] }

/-- One locked addition at a time, in stream order (R142): its granules are read locked, the lower first, and the sum is
written; past the last element the instruction has its results. -/
def addStep (s : State) (f : Flight) : State :=
  let e := f.raw
  let d := eDst e
  let ix := rowIndices e d (fun _ => 0) f.land
  match nextAdd e d ix f.seq with
  | none => s.setF { f with stage := .writing, land := [] }
  | some (n, a) =>
    match (addGranules (eDstW e) a).find? fun g => !f.land.any fun l => l.side == .dest && l.grp == g with
    | some g =>
      if fencedWrites s f then s
      else s.setF { f with seq := n, todo := [{ side := .dest, grp := g, ord := n, elem := n, part := 0, va := 256 * g, len := 256, lock := true }] }
    | none => addWrite s f ix n a

/-- SCATTER_ADD (R141 to R143): the indices and the source are read, then each addition is made. -/
def execScatterAdd (q pos : Nat) (s : State) : Out :=
  workOn s q pos .scatterAdd
    (fun s x =>
      let e := x.raw
      placeEntry s q pos 1 (indexReads oneCut e (eDst e) (eSrc e).run ++ plainReads oneCut (eSrc e) (eSrcW e) false))
    (fun s f =>
      let d := eDst f.raw
      if readyAt s f .first then
        let ix := rowIndices f.raw d (fun _ => 0) f.land
        let g := match indexBadFrom f.raw d true ix with | some n => flightBad f n | none => f
        pump (indexNote (s.setF { g with stage := .second, seq := 0 }) f d (partIndices (fun _ => 0) ix)) f.id
      else if readyAt s f .second && f.wtodo.isEmpty then pump (addStep s f) f.id
      else s)

/-! ### CONTRACT (R144 to R158) -/

/-- The part of an output element: of a row-sum the last one that a cut part feeds, when one does, for then the output
cannot be made (R396). -/
def contractPart (e : Nat) (s : Shape) (shs : List Share) (f : Flight) (n : Nat) : Nat :=
  let l := outLen e s
  let mine := (shs.filter fun x => if eCform e = 2 then x.has (n / l) (n % l) 0
    else x.pl == n / l && decide (x.c0 ≤ n % l) && decide (n % l < x.c1)).map (·.part)
  mine.foldl (fun m i => if (f.parts.getD i { bay := 0 }).cut then i else m) (mine.headD 0)

/-- Outputs that a cut part feeds were never converted: they do not count (R126). -/
def lostOuts (f : Flight) (part : Nat → Nat) (os : List Output) : List Output :=
  if f.cut then os.zipIdx.map fun (o, n) => o.poison (lostElem f part n) else os

/-- CONTRACT (R149): its indices and operands, then its rows and scales, then its outputs. -/
def execContract (q pos : Nat) (s : State) : Out :=
  workOn s q pos .contract
    (fun s x =>
      let shs := contractShares s.cfg.bays x.raw (eSrc x.raw)
      placeEntry s q pos (shareParts shs) (shareIndexReads x.raw (eSrc x.raw) shs ++ operandReads x.raw (eSrc x.raw) shs))
    (fun s f =>
      let e := f.raw
      let src := eSrc e
      let shs := contractShares s.cfg.bays e src
      let t := contractTerms s e src shs f.land
      if readyAt s f .first then
        let g := match indexBadFrom e src false ((shareIndices src t shs).map (·.2.2)) with | some _ => flightBad f 0 | none => f
        pump (s.setF { g with stage := .second, todo := numbered (shareRowReads e src t.ix shs ++ contractScaleReads e src t.ix shs) }) f.id
      else if readyAt s f .second then
        let d := eDst e
        let part := contractPart e src shs f
        let os := lostOuts f part (contractOuts e src t shs)
        let m := contractMade e (rowIdxOnce src t shs) os
        let s := s.setF { f with parts := f.parts.zipIdx.map fun (p, i) => { p with accs := partAccs e src t shs i } }
        produce (indexNote (contractNotes s f src t shs os) f src (shareIndices src t shs)) f.id m part d (eDstW e)
          (destWrites d (eWalk e) (eDstW e) false m.es)
          (rdRanges (shareRowReads e src t.ix shs) ++ rdRanges (shareIndexReads e src shs) ++ rdRanges (operandReads e src shs))
          (rdRanges (contractScaleReads e src t.ix shs))
      else s)

end Sys2Proof.Machine
end

