-- ==== Sys2Proof/Machine/Ports.lean ====
section
/-!
DEFINITION. Ports.lean: link ports, receive streams and reduction bins: the operations that the link commands share (06).
-/
namespace Sys2Proof.Machine

/-! ### Ports -/

/-- LNK_TIMEOUT in GCLK (R223). -/
def linkTimeout (s : State) : Nat := 700 * s.start.lnk.timeout.toNat

/-- Whether a port is UP. -/
def portUp (s : State) (n : Nat) : Bool := (s.getP n).state == .up

/-- The conditions under which a port leaves DOWN (R180); during the self-test every port stays DOWN (R439, Table 13.3). -/
def mayHello (s : State) (p : Port) : Bool :=
  p.state == .down && p.enable && p.phyUp && s.lnk.self != 0xFFFF#16 && s.eng.state != .test

/-- A port leaves DOWN for HELLO (R179, R180): its first HELLO is due at once. -/
def toHello (g : Nat) (p : Port) : Port :=
  { p with state := .hello, incarn := (p.incarn + 1) % 256, helloDue := true, helloAt := g, goodAt := g }

/-- Everything a port holds of its present connection is cleared (R180, R181, R182). -/
def clearConn (p : Port) : Port :=
  { p with adv := [0, 0, 0, 0], sent := [0, 0, 0, 0], seen := [0, 0, 0, 0], ret := [0, 0, 0, 0], nextSeq := 0, ack := 4095
           replay := [], resend := [], confirmed := false, recover := false, nakDue := false, nakCnt := 0
           tx0 := [], tx1 := [], tx2 := [], tx3 := [], stall := [none, none, none, none], held := [], opens := [] }

/-- A port enters UP on a HELLO (R180): unconfirmed, also when that HELLO came with up = 1 (DESIGN CHOICE, log 39). -/
def enterUp (g : Nat) (f : Flit) (p : Port) : Port :=
  { clearConn p with
      state := .up, peerValid := true, peerId := payNat f 0 2, peerPort := payNat f 2 1, peerKind := payNat f 3 1 % 4
      peerIncarn := payNat f 9 1, adv := [payNat f 4 1, payNat f 5 1, payNat f 6 1, payNat f 7 1]
      helloDue := false, goodAt := g }

/-- A port returns to DOWN (R181). -/
def toDown (p : Port) : Port :=
  { clearConn p with state := .down, fenceCause := 0, peerValid := false, peerId := 0, peerPort := 0, peerKind := 0
                     peerIncarn := 0, helloDue := false }

/-- A port becomes FENCED (R186, R216): cause 1 peer lost, 2 replay exhausted. -/
def toFenced (cause : Nat) (p : Port) : Port := { clearConn p with state := .fenced, fenceCause := cause, ack := p.ack, ret := p.ret }

/-! ### Instructions that end at a port -/

/-- The remote port of a LINKPUT or of a send to another chip; `here` says that a send's home is this engine (R339). -/
def sendPort (here : Bool) (e : Nat) : Option Nat :=
  match opOf e with
  | some .linkput => some (eLport e)
  | some .linkreduce => if !eHome e && !here then some (eLport e) else none
  | _ => none

/-- The remote port of an instruction in flight. -/
def Flight.port (f : Flight) : Option Nat := sendPort f.local_ f.raw

/-- Whether a flight has been dispatched: some part holds or has held a context. -/
def started (f : Flight) : Bool := f.parts.any (·.ctx.isSome)

/-- A flight is cut off by its link (R217, R235): nothing more is read or written for it, no CANCEL is sent, and it ends
abandoned; its faults are still to be recorded. -/
def cutByLink (s : State) (id : Nat) : State := abortFlight s id false

/-- An instruction ends without any part (R193, R197, R201): its entry counts as dispatched, its arrival is due. -/
def endAtOnce (s : State) (q pos : Nat) (cut bad : Bool) : State :=
  match (s.getQ q).slotAt pos with
  | none => s
  | some x =>
    let s := match s.flightAt q pos with
      | some _ => s
      | none => s.addF { id := 0, q, pos, raw := x.raw, missed := x.missed, local_ := x.local_ }
    match s.flightAt q pos with
    | none => s
    | some f =>
      let s : State := { s with bay := s.bay.map fun (b, y) => (b, ({ y with waits := y.waits.filter (·.1 != f.id) } : Bay)) }
      let s := s.setF { f with parts := [], todo := [], wtodo := [], stage := .complete, cut := f.cut || cut, bad := f.bad || bad }
      s.modQ q fun y => (y.setSlot { x with st := .dispatched }).noteFront s.clk.gclk

/-- The port-not-up note (R193, R201). -/
def notUpNote (s : State) (q pos port sub : Nat) : State := raise s { src := 0x1B, sub, unit := port, inst := some (q, pos) }

/-! ### Receivers of an MCAST (Table 6.9) -/

/-- One receiver. -/
structure Rcv where
  idx : Nat
  base : Nat
  chip : Nat
  port : Nat
  remote : Bool
  rtally : Option Nat
  deriving DecidableEq, Repr

/-- The receivers of a list. -/
def receivers (list : List Byte) : List Rcv :=
  (chunk 16 (list.length / 16) list).zipIdx.map fun (r, idx) =>
    let v := leNat r
    { idx, base := bits v 0 64, chip := bits v 64 16, port := bits v 80 8, remote := bits v 88 8 == 1
      rtally := if bitAt v 111 then some (bits v 96 14) else none }

/-- The receiver that an entry of a list is detached from, as a transfer that takes nothing. -/
def detachedXfer (g : Nat) (r : Rcv) : Xfer :=
  { port := r.port, xid := 0, idx := r.idx, firstAt := g, lastAt := g, result := some 2, detached := true }

/-- R201 at the dispatch of an MCAST: remote receivers whose port is not UP are detached, with one note for each port. -/
def mcastDown (s : State) (q pos : Nat) (rs : List Rcv) : State :=
  let down := rs.filter fun r => r.remote && !portUp s r.port
  let ports := (List.range 256).filter fun n => down.any (·.port == n)
  each s ports fun s n => notUpNote s q pos n (((down.filter (·.port == n)).map (·.idx)).foldl min 16)

/-! ### Reduction bins (R205 to R215) -/

/-- Loft of one bin slice. -/
def sliceLoft : Nat := 278528

/-- The bin of an rid. -/
def binOf (s : State) (rid : Nat) : Option Bin := s.lnk.bins.find? fun b => b.rid == rid
def setBin (s : State) (b : Bin) : State := { s with lnk.bins := s.lnk.bins.map fun x => if x.rid = b.rid then b else x }

/-- Slices of a bin, and slices open (R205). -/
def slicesOf (rede : Nat) : Nat := ceilDiv rede 16384
def slicesInUse (s : State) : Nat := (s.lnk.bins.map fun b => b.slices.length).sum

/-- Whether a bay can grant a slice (R229, R446): from loft that stays free after the grant of its waiting head. -/
def bayGrantsSlice (s : State) (b : Nat) : Bool :=
  let y := s.getB b
  let head := match waitHead s b with
    | some (id, i) => (match s.flightOf id with | some f => (f.parts.getD i { bay := b }).loft | none => 0)
    | none => 0
  !y.faulted && (y.pwr == .active || y.pwr == .idle) && decide (y.loft + head + sliceLoft ≤ 1048576)

/-- Grants n slices, each on the lowest-numbered bay that can; a bay in Idle wakes (R445). -/
def grantSlices (s : State) : Nat → Option (State × List Nat)
  | 0 => some (s, [])
  | n + 1 =>
    match (List.range s.cfg.bays).find? (bayGrantsSlice s) with
    | none => none
    | some b =>
      match grantSlices (wakeBay (s.modB b fun y => { y with loft := y.loft + sliceLoft, loftClear := false, since := s.clk.gclk }) b) n with
      | none => none
      | some (s, l) => some (s, b :: l)

/-- Opens a bin when its slices fit the limit and the loft grants them (R205). -/
def openBin (s : State) (b : Bin) : Option State :=
  let n := slicesOf b.rede
  if slicesInUse s + n > s.lnk.binLimit then none
  else
    match grantSlices s n with
    | none => none
    | some (s, l) =>
      some { s with lnk.bins := s.lnk.bins ++ [{ b with slices := l, accs := List.replicate b.rede {} }] }

/-- A bin's slices are freed. -/
def dropBin (s : State) (rid : Nat) : State :=
  match binOf s rid with
  | none => s
  | some b =>
    let s := { s with lnk.bins := s.lnk.bins.filter fun x => x.rid != rid }
    each s b.slices fun s i => s.modB i fun y => { y with loft := y.loft - sliceLoft, since := s.clk.gclk }

/-- Whether a flight is a local send or a home that has joined the open bin of an rid (R205). -/
def joined (f : Flight) (rid : Nat) : Bool :=
  f.rx.isNone && opOf f.raw == some .linkreduce && eRid f.raw == rid && f.seq == 1 && f.port.isNone
  && f.stage != .complete

/-- The record of a bin that is abandoned without a contribution that was cut off, by idle ticks, the safe state or a bay fault: it
names the port and the chip of the contribution that opened the bin, none and 0 for a local one (DESIGN CHOICE, log 39). -/
def binEvent (b : Bin) : Ev := { src := 0x0D, unit := b.port.getD 0xFFFF, detail := b.rid + b.chip * 2 ^ 16 }

/-- A bin is abandoned (R215), its record still to be made: its contributions in progress are answered ABANDONED, its home and the
local sends that have joined it end abandoned, its slices are freed. -/
def closeBin (s : State) (rid : Nat) : State :=
  match binOf s rid with
  | none => s
  | some _ =>
    let cs := s.lnk.contribs.filter fun c => c.rid == rid
    let s := { s with lnk.contribs := s.lnk.contribs.filter fun c => c.rid != rid }
    let s := each s cs fun s c => if s.held then s else sendResp s c.port c.xid 2
    let fs := s.flights.filter fun f => joined f rid
    each (dropBin s rid) fs fun s f => cutByLink s f.id

/-- Bins are abandoned for a reason of their own (R215). -/
def abandonBins (s : State) (bs : List Bin) (evs : List Ev) : State :=
  recordCuts (each s (bs.map (·.rid)) closeBin) (bs.map binEvent ++ evs)

/-- Contributions from a port are cut off: the bins they enter are abandoned (R215, R217), each with one record, of the first of them.
A bin whose result is already being written counts its p_cnt without the one that is cut off: it is not abandoned, and nothing is
recorded (DESIGN CHOICE, log 46). -/
def cutContribs (s : State) : List Contrib → State × List Ev
  | [] => (s, [])
  | c :: r =>
    let s := { s with lnk.contribs := s.lnk.contribs.filter fun x => !(x.port == c.port && x.xid == c.xid) }
    match binOf s c.rid with
    | some b =>
      if b.writing then cutContribs s r
      else
        let (s, evs) := cutContribs (closeBin s c.rid) r
        (s, { src := 0x0D, unit := c.port, detail := c.rid + c.chip * 2 ^ 16 } :: evs)
    | none => cutContribs s r

/-- One contribution is cut off, with the other events of its cause. -/
def cutContrib (s : State) (c : Contrib) (evs : List Ev) : State :=
  let (s, l) := cutContribs s [c]
  recordCuts s (l ++ evs)

/-- Elements of a byte string with its marked 16-byte chunks (R172, R173, R208). -/
def streamElems (w n : Nat) (bytes : List Byte) (chunks : List Bool) : List Elem :=
  let v := leNat bytes
  (List.range n).map fun i =>
    let a := w * i / 128
    let b := (w * i + w - 1) / 128
    { code := bits v (w * i) w, psn := ((chunks.drop a).take (b - a + 1)).any id }

/-- The raw form of an accumulator (R212), and its reading. -/
def accRaw (a : Acc) : Nat := unsext 160 a.s + (a.fl % 256) * 2 ^ 160
def enterRaw (a : Acc) (code : Nat) : Acc := { s := a.s + sext 160 (bits code 0 160), fl := a.fl ||| bits code 160 8 }

/-- One element enters its accumulator (R208); `mark` is a format code, or 32 for raw. -/
def enterElem (exp : Int) (mark : Nat) (a : Acc) (x : Elem) : Acc :=
  let a := if x.psn then accFlag a 16 else a
  if mark = 32 then enterRaw a x.code
  else
    let v := valueOf mark x.code
    if valFinite v then accAdd a (rneAt v exp) else accFlag a (termFlag v)

/-- A whole contribution enters a bin, which counts it (R208). -/
def enterBin (b : Bin) (mark : Nat) (faulted : Bool) (es : List Elem) : Bin :=
  { b with accs := b.accs.zipIdx.map fun (a, i) => match es[i]? with | some x => enterElem b.accExp mark a x | none => a
           count := b.count + 1, idle := 0, fed := true, mark := some mark, faulted := b.faulted || faulted }

/-- Whether a contribution's values disagree with an open bin's, or the bin is full (R207). -/
def binRejects (b : Bin) (pcnt rede : Nat) (exp : Int) (mark : Option Nat) : Bool :=
  b.pcnt != pcnt || b.rede != rede || b.accExp != exp
  || (match mark, b.mark with | some m, some k => m != k | _, _ => false)
  || (mark.isSome && decide (b.count ≥ b.pcnt))

/-- The home of a bin, while it has not been cut off. -/
def homeOf (s : State) (b : Bin) : Option Flight :=
  match b.home with
  | some id => s.flights.find? fun f => f.id == id && !f.cut && f.stage != .complete
  | none => none

/-- The reduce-mismatch note (R207). -/
def mismatchNote (s : State) (unit : Nat) (inst : Option (Nat × Nat)) (rid chip : Nat) : State :=
  raise s { src := 0x19, unit, inst, detail := rid + chip * 2 ^ 16 }

/-- A contribution is turned away as not fitting its bin (R207). -/
def mismatch (s : State) (n xid rid chip : Nat) : State :=
  mismatchNote (sendResp s n xid 4) n none rid chip

/-- A local send or a home is rejected (R207): it ends faulted, without entering the bin or writing. -/
def rejectLocal (s : State) (f : Flight) : State :=
  let s := mismatchNote s 0xFFFF (some (f.q, f.pos)) (eRid f.raw) s.lnk.self.toNat
  pump (s.setF { flightBad f 0 with seq := 2, stage := .writing, todo := [], land := [], xfers := [] }) f.id

/-- A bin whose result is written is freed (R210). What is still on its way into it comes when the bin counts p_cnt: it is rejected
(R207, R214), with the freeing of the bin (DESIGN CHOICE, log 39). -/
def freeWritten (s : State) (rid : Nat) : State :=
  let cs := s.lnk.contribs.filter fun c => c.rid == rid
  let fs := s.flights.filter fun f => joined f rid && f.stage == .first && !eHome f.raw
  let s := dropBin { s with lnk.contribs := s.lnk.contribs.filter fun c => c.rid != rid } rid
  each (each s cs fun s c => mismatch s c.port c.xid c.rid c.chip) fs rejectLocal

/-- A home's flight has ended: the bin it has written is freed (R210); a bin it left before stays open. -/
def homeEnded (s : State) (id : Nat) : State :=
  match s.lnk.bins.find? fun b => b.home == some id with
  | some b => if b.writing then freeWritten s b.rid else setBin s { b with home := none }
  | none => s

/-! ### Receive streams (R195, R202) -/

/-- A receive stream ends as R202 states: nothing more is written for it. -/
def endRx (s : State) (f : Flight) : State :=
  match f.rx with
  | none => s
  | some r => s.setF { f with rx := some { r with ended := true }, wtodo := [] }

/-! ### Cutting a port's work (R217) -/

/-- The MCAST receivers of a flight on a port are detached, without a CANCEL; those that have no transfer yet too. -/
def detachPort (g n : Nat) (f : Flight) : Flight :=
  let open_ := f.xfers.map fun x => x.idx
  let fresh := if f.stage = .first ∨ f.stage = .second then
      ((receivers f.list).filter fun r => r.remote && r.port == n && !open_.contains r.idx).map (detachedXfer g)
    else []
  let hit := !fresh.isEmpty || f.xfers.any fun x => !x.loc && x.port == n && x.result.isNone && !x.detached
  { f with xfers := (f.xfers.map fun x =>
             if !x.loc && x.port == n && x.result.isNone then { x with detached := true, result := some 2 } else x) ++ fresh
           cut := f.cut || hit }

/-- An MCAST whose receivers are all detached has nothing more to read or to send: its part is cut off. -/
def mcastStop (s : State) (id : Nat) : State :=
  match s.flightOf id with
  | none => s
  | some f =>
    if (receivers f.list).all fun r => f.xfers.any fun x => x.idx == r.idx && x.detached then
      each s (List.range f.parts.length) fun s i => cutPart s id i
    else s

/-- The tally of a PUT OPEN, when valid (Table 6.5). -/
def openRtally (f : Flit) : Option Nat := if payNat f 6 2 ≥ 0x8000 then some (payNat f 6 2 % 16384) else none

/-- An abandoned arrival at the tally of each OPEN that waits for a context (R202, R217, DEDUCED, log 11). -/
def heldAbandoned (s : State) (held : List Flit) : State :=
  each s (held.filter fun f => f.kind == 4) fun s f =>
    match openRtally f with | some t => arrive s t .abandoned 1 | none => s

/-- A port that leaves UP, or begins anew, cuts off the work that depends on it (R217); `held` are the flits that waited there for a
context, `evs` the other events of its cause. A bin that is abandoned with it has its record whatever the cause: R181 and R182 say
that the reset itself records no fault (DESIGN CHOICE, log 39). -/
def portCut (s : State) (n : Nat) (held : List Flit) (evs : List Ev) : State :=
  let s := heldAbandoned s held
  let sends := s.flights.filter fun f => f.rx.isNone && started f && f.stage != .complete && f.port == some n
    && (f.xfers.all fun x => x.result.isNone)
  let mcasts := s.flights.filter fun f => f.rx.isNone && started f && f.stage != .complete && opOf f.raw == some .mcast
  let rxs := s.flights.filter fun f => match f.rx with | some r => r.port == n | none => false
  let cs := s.lnk.contribs.filter fun c => c.port == n
  let s := each s rxs endRx
  let s := each s sends fun s f => cutByLink s f.id
  let s := each s mcasts fun s f => match s.flightOf f.id with
    | some f => flightStep (mcastStop (s.setF (detachPort s.clk.gclk n f)) f.id) f.id
    | none => s
  let (s, bins) := cutContribs s cs
  recordCuts s (bins ++ evs)

/-! ### Receive streams that begin (R195, R226) -/

/-- Contexts of a bay that receive streams hold. -/
def rxHeld (s : State) (b : Nat) : Nat :=
  (s.flights.filter fun f => f.rx.isSome && f.parts.any fun p => p.bay == b && !p.gone).length

/-- Whether a bay can take a receive stream now (R226). -/
def bayTakesRx (s : State) (b : Nat) : Bool :=
  let y := s.getB b
  y.pwr == .active && y.waking.isNone && !y.faulted && decide (y.ctxs.length < 128) && decide (rxHeld s b < 32)

/-- The bay for a receive stream (R225): the most free contexts, then the lowest number. -/
def rxBay (s : State) : Option Nat :=
  (List.range s.cfg.bays).foldl (fun m b =>
    if !bayTakesRx s b then m
    else match m with
      | none => some b
      | some a => if (s.getB b).ctxs.length < (s.getB a).ctxs.length then some b else some a) none

/-- Elements of a receive stream that have come whole. The OPEN's shape says how many the stream has: its elems is not looked at
(DESIGN CHOICE, log 39: the manual does not say what an elems other than the shape's total does). -/
def rxAvail (r : RxOpen) : Nat := if r.lastSeen then r.shape.total else min r.shape.total (8 * r.bytes.length / max 1 (fmtWidth r.fmt))

/-- The write requests of a receive stream (R56, R173, R194, R195): those of its whole walk whose elements have all come, past those
already made. -/
def rxWrites (r : RxOpen) (made : Nat) : List WrReq :=
  let w := max 1 (fmtWidth r.fmt)
  let all := destWrites r.shape r.walk w false (streamElems w r.shape.total r.bytes r.chunks)
  (all.takeWhile fun q => decide ((writeSpan r.shape w q).2 ≤ rxAvail r)).drop made

/-- A DATA flit's payload is handed to a receive stream (R172, R173). -/
def rxData (s : State) (id : Nat) (f : Flit) : State :=
  match s.flightOf id with
  | none => s
  | some g =>
    match g.rx with
    | none => s
    | some r =>
      if r.ended || r.lastSeen || g.cut then s
      else
        let r := { r with bytes := r.bytes ++ f.payload, chunks := r.chunks ++ (List.range 15).map f.pmask.getLsbD
                          lastSeen := f.last, at_ := s.clk.gclk }
        let ws := rxWrites r g.seq
        pump (s.setF { g with rx := some r, wtodo := g.wtodo ++ ws, seq := g.seq + ws.length }) id

/-- The destination shape of a PUT OPEN (Table 6.5). -/
def openShape (f : Flit) : Shape :=
  { base := payNat f 16 8, run := payNat f 24 4, cnt1 := payNat f 28 4, cnt2 := payNat f 32 4, cnt3 := payNat f 36 4
    step1 := sext 64 (payNat f 40 8), step2 := sext 64 (payNat f 48 8), step3 := sext 64 (payNat f 56 8) }

/-- A PUT OPEN of port n starts its receive stream on bay b (R195). -/
def startRx (s : State) (n b : Nat) (f : Flit) : State :=
  let y := s.getB b
  let c := ((List.range 128).find? fun c => !y.ctxs.contains c).getD 0
  let s := s.setB b { y with ctxs := c :: y.ctxs, since := s.clk.gclk }
  s.addF { id := 0, q := 0, pos := 0, raw := 0, parts := [{ bay := b, ctx := some c, since := s.clk.gclk }]
           rx := some { port := n, xid := f.xid, vc := f.vc, fmt := payNat f 5 1 % 32, elems := payNat f 8 8, rtally := openRtally f
                        shape := openShape f, walk := payNat f 64 1 % 8, at_ := s.clk.gclk } }

/-- Frees slots of a channel: they are returned in the cumulative count (R189). -/
def freeSlots (s : State) (n vc k : Nat) : State :=
  s.modP n fun p => { p with ret := p.ret.set vc (p.ret.getD vc 0 + k) }

/-- Frees the slots of flits, each on its own channel (R189). -/
def freeHeld (s : State) (n : Nat) (l : List Flit) : State := each s l fun s f => freeSlots s n f.vc 1

/-- A flit that waited behind its OPEN is handed over: its OPEN, or its DATA. -/
def serveFlit (n b : Nat) (s : State) (f : Flit) : State :=
  if f.kind = 4 then startRx s n b f
  else match s.rxAt n f.xid with | some g => rxData s g.id f | none => s

/-- The oldest OPEN that waits at port n is served on bay b, with the DATA behind it (R195). -/
def serveHeldAt (s : State) (n b : Nat) : State :=
  match (s.getP n).held.find? fun f => f.kind == 4 with
  | none => s
  | some o =>
    let mine := (s.getP n).held.filter fun f => f.xid == o.xid
    let s := s.modP n fun p => { p with held := p.held.filter fun f => f.xid != o.xid }
    freeHeld (each s mine (serveFlit n b)) n mine

/-- A PUT OPEN that waits is served on a bay with a free context: of the lowest-numbered port, while the outputs are not
held (R195, R221). -/
def serveHeld (s : State) (b : Nat) : State :=
  match s.lnk.port.find? fun (_, p) => !p.held.isEmpty with
  | some (n, _) => if bayTakesRx s b && !s.held then serveHeldAt s n b else s
  | none => s

/-! ### An MCAST's receivers and its window (R199, R200) -/

/-- Whether the next flit of a transfer is staged: always but for an MCAST's DATA (R199). -/
def flitStaged (f : Flight) (x : Xfer) (k : Flit) : Bool :=
  opOf f.raw != some .mcast || k.kind != 5 || decide (min (streamBytes f) (x.sent + 240) ≤ windowEnd f)

/-- Whether data wait for an MCAST's receiver and it has taken none and can take none (R200): its port has no VC0 credit and has sent
none of them in this GCLK, or, of a local one, no write was granted in it. -/
def rcvWaits (s : State) (f : Flight) (x : Xfer) : Bool :=
  if x.loc then (f.wtodo.any fun w => w.rcv == x.idx && inWindow f w) && x.lastAt != s.clk.gclk
  else
    let p := s.getP x.port
    !(x.sent != 0 && x.lastAt == s.clk.gclk) && p.credit 0 == 0
    && (match p.tx0.find? fun k => k.xid == x.xid with | some k => flitStaged f x k | none => false)

/-- Keeps since when a receiver has stalled (R200). -/
def keepStall (s : State) (f : Flight) (x : Xfer) : Xfer :=
  { x with stallAt := if !x.detached && rcvWaits s f x then some (x.stallAt.getD s.clk.gclk) else none }

/-- One GCLK of the receivers' stall counts. -/
def mcStallPass (s : State) : State :=
  { s with flights := s.flights.map fun f =>
      if f.rx.isNone && opOf f.raw == some .mcast && f.stage == .writing then { f with xfers := f.xfers.map (keepStall s f) } else f }

/-! ### Sending -/

/-- Opens a transfer on a port and puts its OPEN on the channel's list, with the DATA flits that follow it at once. -/
def openWith (s : State) (n vc idx firstAt : Nat) (payload : List Byte) (data : Nat → List Flit) : State × Xfer :=
  let (xid, p) := (s.getP n).takeXid
  let p := (mkFlit 4 vc xid payload :: data xid).foldl Port.push p
  (s.setP n (p.restall s.clk.gclk), { port := n, xid, idx, firstAt, lastAt := s.clk.gclk })

/-- Opens a transfer on a port with its OPEN and all its DATA flits. -/
def openXfer (s : State) (n vc idx firstAt w : Nat) (payload : List Byte) (es : List Elem) : State × Xfer :=
  openWith s n vc idx firstAt payload fun xid => dataFlits vc xid w es

end Sys2Proof.Machine
end

