-- ==== Sys2Proof/Machine/Queues.lean ====
section
/-! DEFINITION. Queues.lean: strikes, fetching, pushes and queue control (08). -/
namespace Sys2Proof.Machine

/-- Offset of a queue register. -/
def qReg (q off : Nat) : Nat := 0x400000 + 64 * q + off

/-- Offset of a tally register. -/
def tReg (t off : Nat) : Nat := 0x200000 + 32 * t + off

/-- A strike of the admin queue (R313). -/
def admStrikeNow (s : State) : State := if s.adm.state = .enabled then { s with adm.strikePend := true } else s

/-- A write to Q_STRIKE (R283, R314). -/
def execQStrike (port q : Nat) (s : State) : Out :=
  wr (.qStrike port q) s port (if q = 0 then 0x20C else qReg q 0) (fun _ => true) fun s =>
    if q = 0 then admStrikeNow s
    else if (s.getQ q).state = .enabled then readIndex s q else s

/-- A write to ADM_STRIKE (R313). -/
def execAdmStrike (port : Nat) (s : State) : Out := wr (.admStrike port) s port 0x20C (fun _ => true) admStrikeNow

/-- The admin queue stops under a cause (R316, R317): an outstanding command read is discarded. -/
def admError (s : State) (pos cause : Nat) : State :=
  let s := feDiscard s (· == .admCmd)
  raise { s with adm.state := .error, adm.fetch := none, adm.errIndex := pos, adm.errCause := cause }
    { src := 0x13, sub := cause, inst := some (0, pos) }

/-- Whether a response to a front-end read of `n` blocks is an error or poisons one of them (R287, R408). -/
def feBad (n : Nat) (r : Resp) : Bool := r.sts != 0#2 || r.psn.toNat % 2 ^ n != 0

/-- R285: what a producer index does to P; none stops the queue. -/
def newProducer (size h p p' : Nat) : Option Nat :=
  let d := ringDist size h p
  let d' := ringDist size h p'
  if p' < 2 * size then
    if d < d' ∧ d' ≤ size then some p' else if d' ≤ d then some p else none
  else none

/-- A read of the admin index block returns (R313, R316): one bad half stops the queue, and the other is not taken (DESIGN CHOICE, log 44).
-/
def admIndexReturn (s : State) (r : Resp) : State :=
  let s := { feDone s .admIndex with adm.idxRead := none }
  if s.adm.state != .enabled then { s with adm.strikePend := false }
  else
    if feBad 1 r then admError s s.adm.f 9
    else
      let p' := leNat (sliceBytes r.data 0 4)
      let c' := leNat (sliceBytes r.data 4 4)
      let sc := 2 ^ s.adm.cplLog2
      match newProducer s.adm.size s.adm.h s.adm.p p' with
      | none => admError s s.adm.f 0xA
      | some p =>
        if c' ≥ 2 * sc then admError s s.adm.f 0xA
        else
          let room := ringDist sc s.adm.cplCons s.adm.cplProd
          let cons := if ringDist sc s.adm.cplCons c' ≤ room then c' else s.adm.cplCons
          { s with adm.p := p, adm.cplCons := cons
                   adm.paused := ringDist sc cons s.adm.cplProd == sc }

/-- An index-block read returns (R283, R285, R287). -/
def execIndexBlockReadReturn (q : Nat) (r : Resp) (s : State) : Out :=
  if q = 0 then act s s.adm.idxRead.isSome fun s => admIndexReturn s r
  else
    act s (s.getQ q).idxRead.isSome fun s =>
      let s := feDone s (.index q)
      let y := { s.getQ q with idxRead := none }
      if y.state != .enabled then s.setQ q { y with strikePend := false }
      else
        let s := s.setQ q y
        if feBad 1 r then queueError s q y.f 9 0
        else
          match newProducer y.size y.h y.p (leNat (sliceBytes r.data 0 4)) with
          | some p => s.setQ q { y with p }
          | none => queueError s q y.f 0xA 0

/-- Whether queue q may fetch at its fetch position: ENABLED, something announced, no LINK to be taken, the outputs not held (R286,
R390). -/
def mayFetch (s : State) (q : Nat) : Bool :=
  let y := s.getQ q
  y.state == .enabled && y.f != y.p && !s.held && !y.win.any fun x => x.st == .link

/-- The valid entry that a cached queue's cache holds for a position (R306). -/
def Queue.cachedAt (y : Queue) (pos : Nat) : Option Nat :=
  if y.cached then (y.cache.find? fun c => c.1 == pos % y.size).map Prod.snd else none

/-- Whether a LINK before a position is still to be taken (R278). -/
def Queue.linkBefore (y : Queue) (pos : Nat) : Bool :=
  y.win.any fun z => z.st == .link && decide (ringDist y.size y.h z.pos < ringDist y.size y.h pos)

/-- A fetch of an entry that INVALIDATE_ENTRIES discarded, or of two that are adjacent in the ring and in memory (R286, R309). Their places
among the four are kept for them. A queue in ERROR fetches none again (Table 8.4): what lies behind one there waits until an ABORT
(DESIGN CHOICE, log 44). -/
def fetchAgain (s : State) (q : Nat) (two : Bool) (pos addr : Nat) (rest : List (Nat × Nat)) : Out :=
  let y := s.getQ q
  let n := if two then 2 else 1
  feAct s (y.state == .enabled && !s.held && !y.linkBefore pos && (!two || rest.head? == some (y.after pos 1, addr + 128)))
    (.entries q pos) false addr (128 * n) fun s =>
      s.setQ q { y with fetches := y.fetches ++ [{ pos, n, addr, due := s.feBy }], refetch := if two then rest.drop 1 else rest }

/-- A fetch of one entry, or of two that are adjacent in memory (R286); a cached entry is taken without one (R306), and those that
were discarded are fetched again first (R309). -/
def execEntryFetch (q : Nat) (two : Bool) (s : State) : Out :=
  let y := s.getQ q
  let n := if two then 2 else 1
  match y.refetch, y.cachedAt y.f with
  | (pos, addr) :: r, _ => fetchAgain s q two pos addr r
  | [], some raw =>
    act s (mayFetch s q && !two && decide (y.buffered < 4)) fun s =>
      let s := takeEntry s q y.f y.fetchAddr raw
      recheck (s.modQ q fun z => { z with f := y.after y.f 1, fetchAddr := y.nextAddr y.fetchAddr }) q
  | [], none =>
    feAct s (mayFetch s q && decide (y.buffered + n ≤ 4) && decide (ringDist y.size y.f y.p ≥ n)
        && (!two || (y.nextAddr y.fetchAddr == y.fetchAddr + 128 && (y.cachedAt (y.after y.f 1)).isNone)))
      (.entries q y.f) false y.fetchAddr (128 * n) fun s =>
        let a1 := y.nextAddr y.fetchAddr
        s.setQ q { y with fetches := y.fetches ++ [{ pos := y.f, n, addr := y.fetchAddr, due := s.feBy }]
                          f := y.after y.f n, fetchAddr := if two then y.nextAddr a1 else a1 }

/-- Fetched entries return (R287, R293); the response to a fetch that was discarded is dropped (DESIGN CHOICE, log 40). -/
def execEntryFetchReturn (q pos : Nat) (r : Resp) (s : State) : Out :=
  let y := s.getQ q
  match y.fetches.find? fun f => f.pos == pos with
  | none => act s true fun s => feDone s (.entries q pos) true
  | some f =>
    act s true fun s =>
      let s := (feDone s (.entries q pos)).setQ q { y with fetches := y.fetches.filter fun g => g.pos != pos }
      if feBad (2 * f.n) r then queueError s q pos 9 0
      else
        let s := takeEntry s q pos f.addr (leNat (sliceBytes r.data 0 128))
        let s := if f.n = 2 then takeEntry s q (y.after pos 1) (f.addr + 128) (leNat (sliceBytes r.data 128 128)) else s
        recheck s q

/-- Whether the granger may fetch the next admin command (R315, R316, R431): service, not held, nothing in progress, a free
completion entry. -/
def admMayFetch (s : State) : Bool :=
  s.eng.state == .service && !s.eng.gHeld && s.eng.gFaultAt.isNone && s.adm.state == .enabled && s.adm.cmd.isNone
  && !s.adm.paused && s.adm.f != s.adm.p

/-- Whether an outstanding read's time has run out (R287). -/
def State.overdue (s : State) (due : Option Nat) : Bool := match due with | some a => s.feLate a | none => false

/-- A front-end read has had no response in time (R287). -/
def execFetchTimeout (q : Nat) (entryRead : Bool) (pos : Nat) (s : State) : Out :=
  if q = 0 then
    if entryRead then act s (s.overdue s.adm.fetch) fun s => admError (feDone s .admCmd) s.adm.f 8
    else
      act s (s.overdue s.adm.idxRead) fun s =>
        let s := { feDone s .admIndex with adm.idxRead := none, adm.strikePend := false }
        if s.adm.state = .enabled then admError s s.adm.f 8 else s
  else
    let y := s.getQ q
    if entryRead then
      act s (y.fetches.any fun f => f.pos == pos && s.feLate f.due) fun s =>
        queueError ((feDone s (.entries q pos)).setQ q { y with fetches := y.fetches.filter fun f => f.pos != pos }) q pos 8 0
    else
      act s (s.overdue y.idxRead) fun s =>
        let s := (feDone s (.index q)).setQ q { y with idxRead := none, strikePend := false }
        if y.state = .enabled then queueError s q y.f 8 0 else s

/-- Address of the entry at the fetch position: a LINK that waits there names it (R278). -/
def Queue.fetchFrom (y : Queue) : Nat := match y.win.find? fun x => x.st == .link with | some x => eTarget x.raw | none => y.fetchAddr

/-- A push of one or two entries (R288 to R290, R311). -/
def execPush (port q off : Nat) (data : List Byte) (s : State) : Out :=
  let y := s.getQ q
  let n := if off = 0 then 2 else 1
  csTake (.push port q off data) port s fun s =>
    let s := answered (csGrant s port) port 0#64
    if !((off == 0 || off == 256) && data.length == 256 && q != 0 && y.state == .enabled && !testShut s port (0x1000000 + 512 * q)) then s
    else if ringDist y.size y.h y.p + n > y.size then queueError s q y.f 0xA 0
    else
      let s := s.setQ q { y with p := y.after y.p n }
      if y.f = y.p ∧ y.buffered + n ≤ 4 then
        let a1 := y.nextAddr y.fetchFrom
        let s := takeEntry s q y.p y.fetchFrom (leNat (data.take 128)) true
        let s := if n = 2 then takeEntry s q (y.after y.p 1) a1 (leNat (data.drop 128)) true else s
        recheck (s.modQ q fun z => { z with f := y.after y.p n, fetchAddr := if n = 2 then y.nextAddr a1 else a1 }) q
      else s

/-- Whether a queue has no instruction unretired (Table 8.5): none dispatched, and none aborted with parts still to end. -/
def noneUnretired (s : State) (q : Nat) : Bool :=
  let y := s.getQ q
  !(y.win.any fun x => x.st == .dispatched)
  && (queueFlights s q).all fun f => match y.slotAt f.pos with | some x => slotUndispatched x | none => false

/-- Whether an ERROR queue has nothing unretired and nothing undispatched (Table 8.5). -/
def errorIdle (s : State) (q : Nat) : Bool :=
  let y := s.getQ q
  noneUnretired s q && !(y.win.any slotUndispatched) && y.fetches.isEmpty

/-- A refused ENABLE (R299). -/
def refuseEnable (s : State) (q : Nat) : State :=
  pulseOwner (s.modQ q fun y => { y with refused := true, refusedCnt := y.refusedCnt + 1 }) q 5

/-- Q_CTRL ENABLE (R296, R299, R304, R392). The count of LINKs taken in a row goes on over it (DESIGN CHOICE, log 44). -/
def execEnable (port q : Nat) (s : State) : Out :=
  wr (.enable port q) s port (qReg q 0x14) (fun s => q != 0 && (s.getQ q).state != .absent && (s.getQ q).state != .enabled) fun s =>
    let y := s.getQ q
    if !s.held && (y.state == .disabled || (y.state == .error && errorIdle s q)) then
      readIndex (s.setQ q { y with state := .enabled, f := y.h, fetchAddr := y.headAddr, win := [], fetches := []
                                   refetch := [], refused := false }) q
    else refuseEnable s q

/-- Q_CTRL DISABLE (R296, R297). -/
def execDisable (port q : Nat) (s : State) : Out :=
  wr (.disable port q) s port (qReg q 0x14) (fun s => q != 0 && (s.getQ q).state == .enabled) fun s =>
    settle ((discardAll s q).modQ q fun y => { y with state := .draining }) q

/-- Q_CTRL ABORT (R296, R297). -/
def execAbort (port q : Nat) (s : State) : Out :=
  wr (.abort port q) s port (qReg q 0x14) (fun s => q != 0 && (s.getQ q).state != .absent && (s.getQ q).state != .disabled) fun s =>
    recordCuts (abortQueue s q true) []

/-- A write of the published head (R302): bytes 35:32 and 47:40 of the index block. -/
def headBytes (y : Queue) : List Byte := leBytes y.h 4 ++ leBytes 0 4 ++ leBytes y.headAddr 8

/-- Whether a write to an address is still to be answered: a second one waits, since their order matters (R411). -/
def writeOut (l : List FeWrite) (addr : Nat) : Bool := l.any fun w => w.addr == addr

/-- A head write is issued (R302), once the one before it has been answered (R411). -/
def execHeadWrite (q : Nat) (s : State) : Out :=
  let y := s.getQ q
  feAct s (y.headDue.isSome && !s.held && !writeOut y.headWrs (y.idxBase + 32)) (.head q) true (y.idxBase + 32) 16 fun s =>
    s.setQ q { y with headDue := none, created := false
                      headWrs := y.headWrs ++ [{ addr := y.idxBase + 32, data := headBytes y, due := s.feBy }] }

/-- The oldest head write of a queue is answered or given up (R303). Given up, it ends R298's wait as its response would (DESIGN CHOICE,
log 44). -/
def headWriteDone (s : State) (q : Nat) (failed : Bool) : State :=
  let y := s.getQ q
  match y.headWrs with
  | [] => s
  | w :: r =>
    let s := (feDone s (.head q)).setQ q { y with headWrs := r, pub := y.pub && (y.headDue.isSome || !r.isEmpty) }
    let s := if failed then raise s { src := 9, detail := w.addr } else s
    settle s q

/-- The admin queue's completion entry has been answered or given up (R303, R319). -/
def cplWriteDone (s : State) (failed : Bool) : State :=
  match s.adm.cplWr, s.adm.cmd with
  | some w, some c =>
    let s := { feDone s .admCpl with adm.cplWr := none, adm.cmd := some { c with phase := .written } }
    if failed then raise s { src := 9, detail := w.addr } else s
  | _, _ => s

/-- The enabling actions of the admin queue (R312, R433): its write of zero indices and its read of prod and cpl_cons are owed. -/
def admEnableNow (s : State) : State :=
  let a := s.adm
  { s with adm := { a with enableDue := false, state := .enabled, h := 0, f := 0, p := 0, size := 2 ^ a.ringLog2
                           cplProd := 0, cplCons := 0, paused := false, zeroDue := true, strikePend := true } }

/-- Whether enabling actions that waited can be taken: in service, with no command in progress (R312, R433). -/
def admEnablesNow (s : State) : Bool := s.adm.enableDue && (s.eng.state == .service || s.eng.state == .safe) && s.adm.cmd.isNone

/-- Address of the admin command at a position (R313). -/
def admCmdAddr (a : Adm) (pos : Nat) : Nat := a.ringBase.toNat + 64 * (pos % max 1 a.size)

/-- The read of the admin command at f is issued, or the queue pauses for want of a free completion entry (R315, R316): one command is
read at a time, and f passes it with its return (DESIGN CHOICE, log 44). -/
def admFetchPass (s : State) : State :=
  if admMayFetch s && s.adm.fetch.isNone then
    if ringDist (2 ^ s.adm.cplLog2) s.adm.cplCons s.adm.cplProd = 2 ^ s.adm.cplLog2 then { s with adm.paused := true }
    else
      match feTry s .admCmd false (admCmdAddr s.adm s.adm.f) 64 with
      | some t => { t with adm.fetch := some s.feBy }
      | none => s
  else s

/-- The write of zero indices that enabling owes is issued (R312). -/
def admZeroPass (s : State) : State :=
  if s.adm.zeroDue && !s.held && !writeOut s.adm.idxWr (s.adm.idxBase.toNat + 32) then
    match feTry s .admIndexWr true (s.adm.idxBase.toNat + 32) 8 with
    | some t => { t with adm.zeroDue := false
                         adm.idxWr := s.adm.idxWr ++ [{ addr := s.adm.idxBase.toNat + 32, data := leBytes 0 8, due := s.feBy }] }
    | none => s
  else s

/-- The admin index-block read that is owed is issued (R283, R313). -/
def admReadPass (s : State) : State :=
  if !s.adm.strikePend then s
  else if s.adm.state != .enabled then { s with adm.strikePend := false }
  else if s.adm.idxRead.isSome || s.held then s
  else
    match feTry s .admIndex false s.adm.idxBase.toNat 8 with
    | some t => { t with adm.strikePend := false, adm.idxRead := some s.feBy }
    | none => s

/-- The index-block read that queue q owes is issued (R283, R318). -/
def readPass (s : State) (q : Nat) : State :=
  let y := s.getQ q
  if !y.strikePend then s
  else if y.state != .enabled then s.setQ q { y with strikePend := false }
  else if y.idxRead.isSome || s.held || y.created then s
  else
    match feTry s (.index q) false y.idxBase 8 with
    | some t => t.setQ q { y with strikePend := false, idxRead := some s.feBy }
    | none => s

/-- What the front end does by itself in a GCLK: discarded requests run out, entries that waited behind others are checked, enabling
actions that waited are taken, and the reads and writes that are owed are issued, the admin queue's first (R283, R312, R313, R390). DESIGN
CHOICE, log 40. -/
def frontPass (s : State) : State :=
  let s := recheckAll (feExpire s)
  let s := if admEnablesNow s then admEnableNow s else s
  each (admFetchPass (admReadPass (admZeroPass s))) s.qs.keys readPass

/-- The admin queue's oldest index-block write has been answered or given up (R303, R319): the last one of a completion ends
the command and raises the admin-completion source. -/
def idxWriteDone (s : State) (failed : Bool) : State :=
  match s.adm.idxWr with
  | [] => s
  | w :: r =>
    let s := { feDone s .admIndexWr with adm.idxWr := r }
    let s := if failed then raise s { src := 9, detail := w.addr } else s
    match s.adm.cmd with
    | some c =>
      if c.phase = .indexing ∧ r = [] then
        pulse { s with adm.cmd := none } 2
      else s
    | none => s

/-- A queue-structure write's response returns: a head write (R298, R303), or, of queue 0, a completion entry. -/
def execHeadWriteResponse (q : Nat) (sts : BitVec 2) (s : State) : Out :=
  if q = 0 then act s s.adm.cplWr.isSome fun s => cplWriteDone s (sts != 0#2)
  else act s (!(s.getQ q).headWrs.isEmpty) fun s => headWriteDone s q (sts != 0#2)

/-- The admin index block's write is answered (R319). -/
def execAdminIndexWriteResponse (sts : BitVec 2) (s : State) : Out :=
  act s (!s.adm.idxWr.isEmpty) fun s => idxWriteDone s (sts != 0#2)

/-- A queue-structure write has had no response in time (R303); of queue 0, the admin queue's. -/
def execQueueStructureWriteTimeout (q : Nat) (s : State) : Out :=
  if q = 0 then
    match s.adm.cplWr with
    | some w => act s (s.feLate w.due) fun s => cplWriteDone s true
    | none =>
      match s.adm.idxWr with
      | w :: _ => act s (s.feLate w.due) fun s => idxWriteDone s true
      | [] => .next s
  else
    match (s.getQ q).headWrs with
    | w :: _ => act s (s.feLate w.due) fun s => headWriteDone s q true
    | [] => .next s

end Sys2Proof.Machine
end

