-- ==== Sys2Proof/Machine/Admin.lean ====
section
/-! DEFINITION. Admin.lean: the admin queue and its commands, carried out by the granger (R312 to R319). -/
namespace Sys2Proof.Machine

/-- The granger carries commands out: in SERVICE, not held in reset (R398, R431). -/
def grangerOn (s : State) : Bool := s.eng.state == .service && !s.eng.gHeld && s.eng.gFaultAt.isNone

/-- The command in progress is ready and spells an opcode. -/
def admReady (s : State) (op : Nat) : Option AdmCmd :=
  match s.adm.cmd with
  | some c => if grangerOn s && c.phase == .ready && aOp c.raw == op then some c else none
  | none => none

/-- The command in progress ends with a status and a result; its completion is due. -/
def admDone (s : State) (c : AdmCmd) (status result : Nat) : State :=
  { s with adm.cmd := some { c with phase := .done status result } }

/-- Carries out the command in progress when it spells `op`: `f` answers the state, the status and the result. -/
def admRun (s : State) (op : Nat) (f : State → Nat → State × Nat × Nat) : Out :=
  match admReady s op with
  | none => .next s
  | some c =>
    act s true fun s =>
      let (s, status, result) := f s c.raw
      admDone s c status result

/-- A write of 4 to 12 to ADM_RING_LOG2 (R312, R433). -/
def execAdminQueueEnable (port : Nat) (value : Word) (s : State) : Out :=
  let n := bits value.toNat 0 4
  wr (.adminQueueEnable port value) s port 0x208 (fun s => decide (4 ≤ n) && decide (n ≤ 12) && s.adm.ringLog2 == 0) fun s =>
    let s := { s with adm.ringLog2 := n, adm.enableDue := true }
    if admEnablesNow s then admEnableNow s else s

/-- ADM_RING_LOG2 becomes 0: the queue is disabled, a command that is being fetched is discarded, and the command in progress completes
(R312); paused stays as it is while the completion ring is full (R316). -/
def admDisableNow (s : State) : State :=
  let s := feDiscard s (· == .admCmd)
  { s with adm.ringLog2 := 0, adm.state := .disabled, adm.enableDue := false, adm.strikePend := false, adm.fetch := none
           adm.zeroDue := false
           adm.f := match s.adm.cmd with | some c => (c.pos + 1) % (2 * s.adm.size) | none => s.adm.f }

/-- A write of 0 to ADM_RING_LOG2 (R312, R317). -/
def execAdminQueueDisable (port : Nat) (s : State) : Out := wr (.adminQueueDisable port) s port 0x208 (fun _ => true) admDisableNow

/-- The next command comes in and is checked (R287, R315, R317); or its read has had no response in time. -/
def execAdminCommandFetch (timeout : Bool) (r : Resp) (s : State) : Out :=
  act s (if timeout then s.overdue s.adm.fetch else s.adm.fetch.isSome) fun s =>
    let s := { feDone s .admCmd with adm.fetch := none }
    let a := s.adm
    if timeout then admError s a.f 8
    else if feBad 1 r then admError s a.f 9
    else
      let raw := leNat (sliceBytes r.data 0 64)
      let st := admCheck s.cfg.wakeWires raw
      { s with adm.f := (a.f + 1) % (2 * a.size)
               adm.cmd := some { pos := a.f, raw, phase := if st = 0 then .ready else .done st 0 } }

/-- Cached queues in being (R307). -/
def cachedCount (s : State) : Nat := (s.qs.filter fun (_, y) => y.state != .absent && y.cached).length

/-- CREATE_QUEUE (R306, R307, R318): its head write is due, and its index-block read follows that; Q_CLASS and the counters are written
(R310, DEDUCED, log 19). A read of the number's index block that is still out from before is this queue's own (R283; DESIGN CHOICE,
log 44). -/
def execCreateQueue (s : State) : Out :=
  csAfterMesh .createQueue s (admReady s 1).isSome fun s => admRun s 1 fun s c =>
    let q := aNum c
    let y := s.getQ q
    if y.state ≠ .absent then (s, 0x11, 0)
    else if aCached c ∧ cachedCount s ≥ 16 then (s, 0x14, 0)
    else
      let z : Queue := { state := .enabled, cached := aCached c, k := aK c, owner := aOwner c, ringBase := aRing c, idxBase := aIdx c
                         headAddr := aRing c, fetchAddr := aRing c, cls := aClass c, idxRead := y.idxRead, headWrs := y.headWrs
                         headDue := some s.clk.gclk, created := true }
      (readIndex (each (s.setQ q z) [0x20, 0x28, 0x30] fun s r => noteReg s (qReg q r)) q, 0, 0)

/-- DESTROY_QUEUE (R308, R318): the return of its registers to reset values is no write of R310 (DEDUCED, log 19), and an index-block
read or a head write that is out stays out (DESIGN CHOICE, log 44). -/
def execDestroyQueue (s : State) : Out :=
  admRun s 2 fun s c =>
    let q := aNum c
    let y := s.getQ q
    if y.state = .absent then (s, 0x10, 0)
    else if y.state = .disabled ∨ (y.state = .error ∧ noneUnretired s q) then
      ((discardAll s q).setQ q { idxRead := y.idxRead, headWrs := y.headWrs }, 0, 0)
    else (s, 0x12, 0)

/-- SET_CLASS (R263, R318): the granger's write of Q_CLASS, counted with the others of its GCLK (R310). DEDUCED, log 19. -/
def execSetClass (s : State) : Out :=
  csAfterMesh .setClass s (admReady s 3).isSome fun s => admRun s 3 fun s c =>
    if (s.getQ (aNum c)).state = .absent then (s, 0x10, 0)
    else (noteReg (s.modQ (aNum c) fun y => { y with cls := aSetClass c }) (qReg (aNum c) 0x30), 0, 0)

/-- SET_RT (R272), a write of Q_CLASS (R310): consumption is compared with the new budget from now on. DEDUCED, log 19. -/
def execSetRt (s : State) : Out :=
  csAfterMesh .setRt s (admReady s 4).isSome fun s => admRun s 4 fun s c =>
    let y := s.getQ (aNum c)
    if y.state = .absent then (s, 0x10, 0)
    else
      let used := if y.rtBudget = 0 then 0 else y.rtUsed
      (noteReg (s.setQ (aNum c) { y with rtBudget := aBudget c, rtUsed := used, rtOut := decide (used ≥ 256 * aBudget c) })
        (qReg (aNum c) 0x30), 0, 0)

/-- LOAD_CODEBOOK (R99, R102): waits until no outstanding entry names the slot, then reads its source. -/
def execLoadCodebook (s : State) : Out :=
  match admReady s 5 with
  | none => .next s
  | some c =>
    act s true fun s =>
      let s := { s with crib.loading := some (aNum c.raw) }
      match feTry s .codebook false (aAddr c.raw) 512 with
      | some t => if cribInflight s (aNum c.raw) = 0 then { t with adm.cmd := some { c with phase := .reading s.feBy } } else s
      | none => s

/-- The codebook is loaded (R99): 512 bytes, or status 0x13 with the slot unchanged. -/
def loadDone (s : State) (c : AdmCmd) (bad : Bool) (data : List Byte) : State :=
  let s := { s with crib.loading := none, crib.mem := if bad then s.crib.mem else s.crib.mem.writeAll (512 * aNum c.raw) data }
  recheckAll (admDone s c (if bad then 0x13 else 0) 0)

/-- A LOAD_CODEBOOK that the safe state has held goes on with what it has read (R390, R395). -/
def heldLoad (s : State) : State :=
  match s.adm.cmd with
  | none => s
  | some c =>
    match c.phase with
    | .read bad data => if grangerOn s then loadDone s c bad data else s
    | _ => s

/-- The codebook's source read ends (R99); in the safe state the command keeps what has come (R390). DESIGN CHOICE, log 15. -/
def execLoadCodebookDone (timeout : Bool) (r : Resp) (s : State) : Out :=
  match s.adm.cmd with
  | none => .next s
  | some c =>
    match c.phase with
    | .reading due =>
      act s ((s.held || s.eng.state == .service) && !s.eng.gHeld && s.eng.gFaultAt.isNone && (!timeout || s.feLate due)) fun s =>
        let bad := timeout || feBad 5 r
        let data := sliceBytes r.data 0 512
        let s := feDone s .codebook
        if s.held then { s with adm.cmd := some { c with phase := .read bad data } } else loadDone s c bad data
    | _ => .next s

/-- Whether a ring slot is one an INVALIDATE_ENTRIES names: count 0 names all (Table 8.6). -/
def namesSlot (c slot : Nat) : Bool := aCount c == 0 || (decide (aFirst c ≤ slot) && decide (slot < aFirst c + aCount c))

/-- Puts a position and its address among those to be fetched again, in ring order. -/
def Queue.fetchLater (y : Queue) (x : Nat × Nat) : Queue :=
  let d (p : Nat) : Nat := ringDist y.size y.h p
  { y with refetch := (y.refetch.filter fun z => decide (d z.1 < d x.1)) ++ [x] ++ y.refetch.filter fun z => decide (d z.1 > d x.1) }

/-- The positions of a fetch and their addresses. -/
def Queue.fetchPlaces (y : Queue) (f : Fetch) : List (Nat × Nat) := (List.range f.n).map fun i => (y.after f.pos i, f.addr + 128 * i)

/-- INVALIDATE_ENTRIES (R308, R309): the named slots lose their cached entries, and the entries of theirs that are fetched, or being
fetched, and not dispatched are fetched again (DEDUCED, log 16). -/
def execInvalidateEntries (s : State) : Out :=
  admRun s 6 fun s c =>
    let q := aNum c
    let y := s.getQ q
    if y.state = .absent then (s, 0x10, 0)
    else if aFirst c + aCount c > y.size then (s, 3, 0)
    else if !y.cached then (s, 0, 0)
    else
      let named (pos : Nat) : Bool := namesSlot c (pos % y.size)
      let out := y.fetches.filter fun f => (y.fetchPlaces f).any fun x => named x.1
      let s := discard (s.setQ q { y with cache := y.cache.filter fun e => !namesSlot c e.1 }) q named fun p => out.any (·.pos == p)
      let again := ((y.win.filter fun x => slotUndispatched x && named x.pos).map fun x => (x.pos, x.addr)) ++ out.flatMap y.fetchPlaces
      (s.modQ q fun z => again.foldl Queue.fetchLater { z with refetch := y.refetch }, 0, 0)

/-- BIND_TALLY (R355), applied at the end of its GCLK before what else reaches the tally (R353): of what it sets, TAL_WDOG alone counts as
written (R310, DEDUCED, log 19). -/
def execBindTally (s : State) : Out :=
  csAfterMesh .bindTally s (admReady s 7).isSome fun s => admRun s 7 fun s c =>
    let t := aNum c % 16384
    let b : Tally := { target := aTarget c, wdog := aWdog c, wake0 := aWake c 0, wake1 := aWake c 1, wake2 := aWake c 2, wake3 := aWake c 3 }
    (noteReg (talNote s t fun x => { x with bind := some b }) (tReg t 0x1C), 0, 0)

/-- SHOOTDOWN_MAP (R248): the command waits for SHOOTDOWN_COMPLETE. -/
def execShootdownMap (s : State) : Out :=
  match admReady s 8 with
  | none => .next s
  | some c =>
    act s true fun s =>
      let s := invalidate s none { all := aPages c.raw == 0, lo := aAddr c.raw, hi := aAddr c.raw + 4096 * aPages c.raw }
      { s with adm.cmd := some { c with phase := .waiting } }

/-- QUERY (Table 8.7, R318). -/
def execQuery (s : State) : Out :=
  admRun s 9 fun s c =>
    let q := aNum c
    if q = 0 then (s, 0, queryResult (qStateNum s.adm.state) s.adm.h s.adm.p 0)
    else
      let y := s.getQ q
      (s, 0, queryResult (qStateNum y.state) y.h y.p y.inflight)

/-- The completion of a command (R319): first its 16-byte entry, and once that is written, cons and cpl_prod. -/
def execAdminCompletion (s : State) : Out :=
  match s.adm.cmd with
  | none => .next s
  | some c =>
    match c.phase with
    | .done st res =>
      let n := 2 ^ s.adm.cplLog2
      feAct s (!s.held && s.eng.gFaultAt.isNone) .admCpl true (s.adm.cplBase.toNat + 16 * (s.adm.cplProd % n)) 16 fun s =>
        { s with adm.cmd := some { c with phase := .writing }
                 adm.cplWr := some { addr := s.adm.cplBase.toNat + 16 * (s.adm.cplProd % n), due := s.feBy
                                     data := completionBytes s.adm.cplProd n (aTag c.raw) (aOp c.raw) st c.pos res } }
    | .written =>
      feAct s (!s.held && !writeOut s.adm.idxWr (s.adm.idxBase.toNat + 32)) .admIndexWr true (s.adm.idxBase.toNat + 32) 8 fun s =>
        let n := 2 ^ s.adm.cplLog2
        let prod := (s.adm.cplProd + 1) % (2 * n)
        let h := (c.pos + 1) % (2 * s.adm.size)
        { s with adm := { s.adm with
            cmd := some { c with phase := .indexing }, cplProd := prod, h, paused := ringDist n s.adm.cplCons prod == n
            idxWr := s.adm.idxWr ++ [{ addr := s.adm.idxBase.toNat + 32, data := leBytes h 4 ++ leBytes prod 4, due := s.feBy }] } }
    | _ => .next s

end Sys2Proof.Machine
end

