-- ==== Sys2Proof/Machine/Collectives.lean ====
section
/-!
DEFINITION. Collectives.lean: the link instructions LINKPUT, LINKREDUCE and MCAST (R192 to R215): what their senders, homes
and receivers do. A LINKPUT and a send read their source whole before it is sent (DEDUCED, log 11), an MCAST sends it as it lands (R199).
-/
namespace Sys2Proof.Machine

/-- Reads of the source of a link instruction, which has one part (Table 7.1). -/
def linkReads (e : Nat) : List RdReq := plainReads oneCut (eSrc e) (eSrcW e) false

/-- The source elements of a link instruction. -/
def linkStream (f : Flight) : List Elem := landedStream oneCut f

/-- Places a sending instruction. Whether its port is UP is asked when its part is dispatched (R193). -/
def placeSend (s : State) (q pos : Nat) (e : Nat) : State := placeEntry s q pos 1 (linkReads e)

/-! ### LINKPUT -/

/-- LINKPUT (R194): its source is read, then sent as one transfer on VC0; its data are remote writes, which a READS fence holds
(R238). -/
def execLinkput (q pos : Nat) (s : State) : Out :=
  workOn s q pos .linkput (fun s x => placeSend s q pos x.raw) fun s f =>
    if readyAt s f .first && !fencedWrites s f then
      let e := f.raw
      let (s, x) := openXfer s (eLport e) 0 0 s.clk.gclk (eSrcW e)
        (putOpen s.lnk.self.toNat (eRchip e) (eSrcFmt e) (eRtally e) (eSrc e).total (eDst e) (eWalk e)) (linkStream f)
      pump (s.setF { f with stage := .writing, land := [], xfers := [x] }) f.id
    else s

/-! ### LINKREDUCE -/

/-- The mark of an instruction's contribution (R207): its format, or 32 for raw. -/
def redMark (e : Nat) : Nat := if eRawIn e then 32 else eSrcFmt e

/-- Sends the whole contribution to its home chip on VC2 (R204, R206). What was read stays, for a BUSY answer (DEDUCED, log 11). -/
def sendRemote (s : State) (f : Flight) (n firstAt : Nat) : State :=
  let e := f.raw
  let (s, x) := openXfer s n 2 0 firstAt (eSrcW e)
    (redOpen s.lnk.self.toNat (eRchip e) (redMark e) (eRid e) (ePcnt e) (eRedE e) (eAccExpL e)) (linkStream f)
  pump (s.setF { f with stage := .writing
                        xfers := [{ x with busy := f.xfers.any (·.busy), old := f.xfers.flatMap fun y => y.xid :: y.old }] }) f.id

/-- The bin that an instruction opens (R207). -/
def newBin (e : Nat) (mark home : Option Nat) : Bin :=
  { rid := eRid e, pcnt := ePcnt e, rede := eRedE e, accExp := eAccExpL e, mark, accs := [], home }

/-- A local send joins or opens its bin, or waits for slices (R205, R207). It sends no OPEN, so that the time of R206 begins for it when
it is first found that its bin cannot be opened (DESIGN CHOICE, log 46). -/
def joinSend (s : State) (f : Flight) : State :=
  let e := f.raw
  match binOf s (eRid e) with
  | some b =>
    if binRejects b (ePcnt e) (eRedE e) (eAccExpL e) (some (redMark e)) then rejectLocal s f
    else (setBin s { b with mark := some (redMark e) }).setF { f with seq := 1, xfers := [] }
  | none =>
    match openBin s (newBin e (some (redMark e)) none) with
    | some s => s.setF { f with seq := 1, xfers := [] }
    | none =>
      if f.xfers.isEmpty then
        s.setF { f with xfers := [{ port := 0, xid := 0, loc := true, firstAt := s.clk.gclk, lastAt := s.clk.gclk, busyAt := some s.clk.gclk }] }
      else s

/-- A local send whose source is read enters its bin (R208, R209). -/
def enterSend (s : State) (f : Flight) : State :=
  match binOf s (eRid f.raw) with
  | none => joinSend s f
  | some b =>
    if b.count ≥ b.pcnt then rejectLocal s f
    else
      let s := setBin s (enterBin b (redMark f.raw) false (linkStream f))
      pump (s.setF { f with stage := .writing, land := [] }) f.id

/-- A local send goes on: it joins its bin, and enters it once its source is read. -/
def localSend (s : State) (f : Flight) : State :=
  if f.stage != .first || !started f then s
  else
    let s := if f.seq = 0 then joinSend s f else s
    match s.flightOf f.id with
    | some g => if g.seq == 1 && readyAt s g .first then enterSend s g else s
    | none => s

/-- LINKREDUCE with role send (R204, R205, R339). -/
def execLinkreduceSend (q pos : Nat) (s : State) : Out :=
  workOn s q pos .linkreduce
    (fun s x => if eHome x.raw then s else placeSend s q pos x.raw)
    fun s f =>
      if eHome f.raw then s
      else
        match f.port with
        | some n => if readyAt s f .first then sendRemote s f n s.clk.gclk else s
        | none => localSend s f

/-- A home joins or opens its bin, or waits for slices (R205, R207). -/
def joinHome (s : State) (f : Flight) : State :=
  let e := f.raw
  let mark := if eHomeSrc e then some (redMark e) else none
  match binOf s (eRid e) with
  | some b =>
    if b.writing || (homeOf s b).isSome || binRejects { b with count := 0 } (ePcnt e) (eRedE e) (eAccExpL e) mark then rejectLocal s f
    else (setBin s { b with home := some f.id, mark := if mark.isSome then mark else b.mark }).setF { f with seq := 1 }
  | none =>
    match openBin s (newBin e mark (some f.id)) with
    | some s => s.setF { f with seq := 1 }
    | none => s

/-- A home that has joined delivers its own contribution, if it has one (R208), and waits for the bin to be complete. -/
def enterHome (s : State) (f : Flight) : State :=
  let g := { f with stage := .second, land := [] }
  if !eHomeSrc f.raw then s.setF g
  else
    match binOf s (eRid f.raw) with
    | none => s
    | some b =>
      if b.count ≥ b.pcnt then
        (mismatchNote s 0xFFFF (some (f.q, f.pos)) b.rid s.lnk.self.toNat).setF (flightBad g 0)
      else (setBin s (enterBin b (redMark f.raw) false (linkStream f))).setF g

/-- LINKREDUCE with role home (R205, R207, R210). -/
def execLinkreduceHome (q pos : Nat) (s : State) : Out :=
  workOn s q pos .linkreduce
    (fun s x => if eHome x.raw then placeEntry s q pos 1 (if eHomeSrc x.raw then linkReads x.raw else []) else s)
    fun s f =>
      if !eHome f.raw || f.stage != .first || !started f then s
      else
        let s := if f.seq = 0 then joinHome s f else s
        match s.flightOf f.id with
        | some g => if g.seq == 1 && readyAt s g .first then enterHome s g else s
        | none => s

/-- 1,400 GCLK after a BUSY answer the whole contribution is sent again (R206). -/
def execBusyRetry (q pos : Nat) (s : State) : Out :=
  match s.flightAt q pos with
  | none => .next s
  | some f =>
    match f.xfers.find? fun x => !x.loc && x.result.isNone && x.busyAt.isSome with
    | none => .next s
    | some x =>
      act s (f.stage != .complete && !s.held && portUp s x.port && decide (s.clk.gclk ≥ x.busyAt.getD 0 + 1400)) fun s =>
        sendRemote s f x.port x.firstAt

/-- LNK_TIMEOUT has passed since the first OPEN of a send that was turned away and has no final answer (R206): also when it is being
sent again. -/
def execReduceBinUnavailable (q pos : Nat) (s : State) : Out :=
  match s.flightAt q pos with
  | none => .next s
  | some f =>
    match f.xfers.find? fun x => x.result.isNone && (x.busyAt.isSome || x.busy) with
    | none => .next s
    | some x =>
      act s (f.stage != .complete && decide (s.clk.gclk ≥ x.firstAt + linkTimeout s)) fun s =>
        recordCuts (cutByLink s f.id) [{ src := 0xC, unit := if x.loc then 0xFFFF else x.port, inst := some (q, pos)
                                         detail := eRid f.raw + eRchip f.raw * 2 ^ 16 }]

/-- No contribution has entered an incomplete bin for idle_ticks ticks (R215). -/
def execReduceBinIdleAbandon (rid : Nat) (s : State) : Out :=
  match binOf s rid with
  | none => .next s
  | some b =>
    act s (s.lnk.binIdle != 0#16 && decide (b.count < b.pcnt) && decide (b.idle ≥ s.lnk.binIdle.toNat)) fun s =>
      abandonBins s [b] []

/-! ### The result of a bin (R210 to R212) -/

/-- The result elements of a bin. -/
def binElems (e : Nat) (b : Bin) : List Elem :=
  b.accs.map fun a =>
    if eRawOut e then { code := accRaw a, psn := bitAt a.fl 4 }
    else
      let c := accOut (eDstFmt e) (eOvfInf e) b.accExp a
      { code := c.code, psn := bitAt a.fl 4 || c.gen }

/-- Cuts a write at the boundaries of 256-byte granules, as pieces of locked sequences. -/
def granuleCut (w : Nat) (r : WrReq) : List WrReq :=
  (granulesOf r.va r.data.length).map fun g =>
    let lo := max r.va (256 * g)
    let hi := min (r.va + r.data.length) (256 * g + 256)
    { r with va := lo, data := sliceBytes r.data (lo - r.va) (hi - lo), ord := r.ord + 8 * (lo - r.va) / max 1 w
             psn := BitVec.ofNat 5 (r.psn.toNat >>> (lo / 64 - r.va / 64)) &&& onesPsn (blocksOf lo (hi - lo))
             elem := r.elem + 8 * (lo - r.va) / max 1 w, lock := true }

/-- The locked reads of the granules that writes touch, one each (R267). DESIGN CHOICE, log 23. -/
def granuleReads (ws : List WrReq) : List RdReq :=
  ws.foldl (fun l w =>
    if l.any fun r => r.grp == w.va / 256 then l
    else l ++ [{ side := .dest, grp := w.va / 256, ord := w.ord, elem := w.elem, part := 0, va := w.va / 256 * 256, len := 256, lock := true }]) []

/-- A complete bin whose home has been dispatched writes its result (R210): each granule as a locked sequence. -/
def execBinResultWrite (rid : Nat) (s : State) : Out :=
  match binOf s rid with
  | none => .next s
  | some b =>
    match homeOf s b with
    | none => .next s
    | some f =>
      act s (decide (b.count ≥ b.pcnt) && !b.writing && f.stage == .second && !s.held && !fencedWrites s f) fun s =>
        let e := f.raw
        let ws := (destWrites (eDst e) (eWalk e) (eDstW e) false (binElems e b)).flatMap (granuleCut (eDstW e))
        let (s, ws) := overlapFree s (if eHomeSrc e then rdRanges (linkReads e) else []) [] [] ws
        pump ((setBin s { b with writing := true }).setF
          { f with stage := .writing, todo := granuleReads ws, wtodo := ws, land := [], bad := f.bad || b.faulted }) f.id

/-! ### MCAST (R197 to R203) -/

/-- Elements whose codes are not defined (R70, DESIGN CHOICE, log 9). -/
def freeElems (s : State) (w : Nat) (es : List Elem) : State × List Elem :=
  let (l, s) := s.freeBytes (ceilDiv (w * es.length) 8)
  let v := leNat l
  (s, es.zipIdx.map fun (x, i) => { x with code := bits v (w * i) w })

/-- The writes of a local receiver. The address check of Table 2.4 covers the entry's own destination base; a receiver's base is walked
as it is, an address below zero read as zero (DESIGN CHOICE, log 39: the manual does not say whether the check covers it). -/
def rcvWrites (e : Nat) (es : List Elem) (r : Rcv) : List WrReq :=
  (destWrites { eDst e with base := r.base } (eWalk e) (eDstW e) false es).map fun w => { w with rcv := r.idx }

/-- A receiver's transfer is opened: the OPEN of a remote one on VC0 (R198), or none for a local one. -/
def openRcv (s : State) (f : Flight) (r : Rcv) : State × Xfer :=
  let e := f.raw
  if r.remote then
    if portUp s r.port then
      openWith s r.port 0 r.idx s.clk.gclk
        (putOpen s.lnk.self.toNat r.chip (eSrcFmt e) r.rtally (eSrc e).total { eDst e with base := r.base } (eWalk e)) fun _ => []
    else (s, detachedXfer s.clk.gclk r)
  else (s, { port := 0, xid := 0, loc := true, idx := r.idx, firstAt := s.clk.gclk, lastAt := s.clk.gclk, result := some 0 })

/-- The transfers of every receiver in turn. -/
def openRcvs (s : State) (f : Flight) : List Rcv → State × List Xfer
  | [] => (s, [])
  | r :: rest =>
    let (s, x) := openRcv s f r
    let (s, xs) := openRcvs s f rest
    (s, x :: xs)

/-- The elements of an MCAST's stream that have landed: those before the first read that is still to be issued or answered. -/
def mcLanded (s : State) (f : Flight) : Nat :=
  (f.todo.map (·.elem) ++ (s.reads.filter (·.flight == f.id)).map (·.req.elem)).foldl min (eSrc f.raw).total

/-- How many DATA flits of a stream of `total` elements have all their bytes once n elements have landed (R172). -/
def flitsFull (w total n : Nat) : Nat := if n ≥ total then max 1 (ceilDiv (ceilDiv (w * total) 8) 240) else w * n / 8 / 240

/-- A receiver's share of the elements from f.seq to a: writes of a local one, DATA flits of a remote one; what they carry is not
defined when `clash` (R70). -/
def feedRcv (s : State) (f : Flight) (clash : Bool) (es : List Elem) (a : Nat) (x : Xfer) : State × List WrReq :=
  let e := f.raw
  if x.detached || decide (a ≤ f.seq) then (s, [])
  else if x.loc then
    match (receivers f.list).find? fun r => r.idx == x.idx with
    | none => (s, [])
    | some r =>
      let ws := (rcvWrites e es r).filter fun q =>
        let n := (writeSpan (eDst e) (eDstW e) q).2
        decide (f.seq < n) && decide (n ≤ a)
      if clash then freeWrites s (fun _ => true) ws else (s, ws)
  else
    let w := eSrcW e
    let n := (eSrc e).total
    let (s, es) := if clash then freeElems s w es else (s, es)
    let flits := ((dataFlits 0 x.xid w es).take (flitsFull w n a)).drop (flitsFull w n f.seq)
    (s.modP x.port fun p => (flits.foldl Port.push p).restall s.clk.gclk, [])

/-- The shares of every receiver in turn. -/
def feedRcvs (s : State) (f : Flight) (clash : Bool) (es : List Elem) (a : Nat) : List Xfer → State × List WrReq
  | [] => (s, [])
  | x :: rest =>
    let (s, w) := feedRcv s f clash es a x
    let (s, ws) := feedRcvs s f clash es a rest
    (s, w ++ ws)

/-- Whether the bytes of some local receiver overlap the source: then no destination byte of the MCAST is defined (R70). -/
def mcastClash (e : Nat) (es : List Elem) (rs : List Rcv) : Bool :=
  rangesMeet (wrRanges ((rs.filter fun r => !r.remote).flatMap (rcvWrites e es))) (rdRanges (linkReads e))

/-- The transfers of an MCAST's receivers that are not detached are opened (R198). -/
def mcastOpen (s : State) (f : Flight) : State × Flight :=
  let rs := (receivers f.list).filter fun r => !f.xfers.any fun x => x.idx == r.idx
  let (s, xs) := openRcvs s f rs
  (s, { f with stage := .writing, xfers := f.xfers ++ xs, cut := f.cut || xs.any fun x => x.detached })

/-- What has landed of an MCAST's source goes to every receiver, and is kept no longer than a flit or a write that is not full yet can need
it, of at most 512 elements (R199). -/
def mcastFeed (s : State) (f : Flight) : State :=
  let a := mcLanded s f
  let es := linkStream f
  let (s, ws) := feedRcvs s f (mcastClash f.raw es (receivers f.list)) es a f.xfers
  let handed (l : Landed) : Bool := decide (l.elem + 8 * l.data.length / max 1 (eSrcW f.raw) + 1024 ≤ a) || decide (a = (eSrc f.raw).total)
  pump (mcastStop (s.setF { f with seq := max f.seq a, wtodo := f.wtodo ++ ws, land := f.land.filter fun l => !handed l }) f.id) f.id

/-- MCAST (R197 to R199, R201): without a usable list it moves no data; else each command hands what has landed of its source to every
receiver that is not detached; a READS fence holds it (R238). -/
def execMcast (q pos : Nat) (s : State) : Out :=
  workOn s q pos .mcast
    (fun s x =>
      if x.listBad then endAtOnce s q pos false true
      else
        match x.list with
        | none => s
        | some _ => placeEntry s q pos 1 (linkReads x.raw))
    fun s f =>
      if fencedWrites s f || !started f || f.parts.all (·.cut) then s
      else if f.stage == .first then
        let (s, f) := mcastOpen s f
        mcastFeed s f
      else if f.stage == .writing then mcastFeed s f
      else s

/-- Whether a receiver has stalled for MCAST_STALL and takes no data in this GCLK (R200). -/
def rcvStalled (s : State) (f : Flight) (x : Xfer) : Bool :=
  rcvWaits s f x && (match x.stallAt with | some a => decide (s.clk.gclk ≥ a + 700 * s.start.lnk.mcStall.toNat) | none => false)

/-- A stalled receiver is detached (R200). -/
def execMulticastDetach (q pos idx : Nat) (s : State) : Out :=
  match s.flightAt q pos with
  | none => .next s
  | some f =>
    match f.xfers.find? fun x => x.idx == idx && !x.detached with
    | none => .next s
    | some x =>
      act s (opOf f.raw == some .mcast && f.stage == .writing && rcvStalled s f x) fun s =>
        let s := if x.loc then s else cancelXfer s true x
        let chip := match (receivers f.list).find? fun r => r.idx == idx with | some r => r.chip | none => 0
        let s := raise s { src := 0x1A, sub := idx, unit := if x.loc then 0xFFFF else x.port, inst := some (q, pos)
                           detail := if x.loc then 0 else chip }
        pump (mcastStop (s.setF { f with
          cut := true, wtodo := if x.loc then f.wtodo.filter (·.rcv != idx) else f.wtodo
          xfers := f.xfers.map fun y => if y.idx = idx then { y with detached := true, result := some 2 } else y }) f.id) f.id

end Sys2Proof.Machine
end

