-- ==== Sys2Proof/Machine/Links.lean ====
section
/-! DEFINITION. Links.lean: the states of a link port, what it sends, and its timers (R179 to R189, R216, R218, R220). -/
namespace Sys2Proof.Machine

/-- Offset of a port register. -/
def pReg (n off : Nat) : Nat := 0x800000 + 0x1000 * n + off

/-! ### Port control -/

/-- A port returns to DOWN (R181): its work is cut off, and no fault is recorded. -/
def portDown (s : State) (n : Nat) : State :=
  let held := (s.getP n).held
  portCut (s.modP n toDown) n held []

/-- A write to LNK_CTRL (R180, R181): rx_class and enable, and the reset that bit 1 asks for. -/
def writeLnkCtrl (s : State) (n : Nat) (v : Word) : State :=
  let en := v.getLsbD 0
  let s := if !en || v.getLsbD 1 then portDown s n else s
  s.modP n fun p =>
    let p := { p with enable := en, rxClass := bits v.toNat 4 3 }
    if mayHello s p && !v.getLsbD 1 then toHello s.clk.gclk p else p

/-- A write to LNK_CTRL.enable (R180, R181). -/
def execLinkEnable (port n : Nat) (value : Word) (s : State) : Out :=
  wr (.linkEnable port n value) s port (pReg n 4) (fun s => s.hasPort n) fun s => writeLnkCtrl s n value

/-- A write of 1 to LNK_CTRL.reset (R181). A port whose conditions for leaving DOWN still hold leaves it again in the next
GCLK (DEDUCED, log 11). -/
def execLinkReset (port n : Nat) (value : Word) (s : State) : Out :=
  wr (.linkReset port n value) s port (pReg n 4) (fun s => s.hasPort n && value.getLsbD 1) fun s => writeLnkCtrl s n value

/-- phy_up rises (R167, R180). -/
def execPhyUpRise (n : Nat) (s : State) : Out :=
  act s (s.hasPort n && !(s.getP n).phyUp) fun s =>
    s.modP n fun p =>
      let p := { p with phyUp := true }
      if mayHello s p then toHello s.clk.gclk p else p

/-- 700 GCLK have passed in HELLO since the last HELLO fell due (R179). -/
def execHelloTimer (n : Nat) (s : State) : Out :=
  let p := s.getP n
  act s (p.state == .hello && decide (s.clk.gclk ≥ p.helloAt + 700)) fun s =>
    s.setP n { p with helloDue := true, helloAt := s.clk.gclk }

/-- A port becomes FENCED (R186, R216): the work that depends on it is cut off (R217), and the fault is recorded with what that brings,
in the order of R382. -/
def fencePort (s : State) (n cause src : Nat) : State :=
  let p := s.getP n
  portCut (s.setP n (toFenced cause p)) n p.held [{ src, unit := n, detail := p.peerId + p.peerKind * 2 ^ 16 }]

/-! ### Sending (R183 to R189) -/

/-- The header fields that a port fills in when it sends (Table 6.3). Before it first enters UP its ack is 0 after reset, and 4,095 once
it has been cleared (DESIGN CHOICE, log 39: R180 sets it only on entering UP). -/
def stamp (p : Port) (f : Flit) : Flit :=
  { f with ack := p.ack, up := p.state == .up, crd := p.ret.map (· % 256) }

/-- A flit goes out. -/
def Port.send (p : Port) (f : Flit) : Port := { p with tx := flitBytes (stamp p f) }

/-- A VC flit goes out for the first time: it takes the next seq and a credit, and is kept for replay (R184, R188). -/
def Port.sendVc (p : Port) (f : Flit) : Port :=
  let f := { f with seq := p.nextSeq }
  { p.send f with nextSeq := (p.nextSeq + 1) % 4096, replay := p.replay ++ [f]
                  sent := p.sent.set f.vc (p.sent.getD f.vc 0 + 1) }

/-- Takes a flit off its channel's waiting list. -/
def Port.take (p : Port) (f : Flit) : Port :=
  match f.vc with
  | 0 => { p with tx0 := p.tx0.erase f }
  | 1 => { p with tx1 := p.tx1.erase f }
  | 2 => { p with tx2 := p.tx2.erase f }
  | _ => { p with tx3 := p.tx3.erase f }

/-- The RESP or CANCEL that goes next (step 3 of R187). -/
def Port.answer (p : Port) : Option Flit :=
  match (if p.credit 1 ≥ 1 then p.tx1.head? else none) with
  | some f => some f
  | none => if p.credit 3 ≥ 1 then p.tx3.head? else none

/-- The instruction whose transfer a waiting flit of port n belongs to. -/
def flitOwner (s : State) (n : Nat) (k : Flit) : Option Flight :=
  s.flights.find? fun f => f.rx.isNone && f.xfers.any fun x => !x.loc && x.port == n && (x.xid == k.xid || x.old.contains k.xid)

/-- A flit that an input of a port's arbiter has ready: its bay, and the stream that sends it. A flit whose instruction has ended is
bay 0's (DESIGN CHOICE, log 35). -/
structure TxFlit where
  flit : Flit
  bay : Nat := 0
  owner : Option Flight := none
  deriving DecidableEq, Repr

/-- Whether a waiting flit may go as far as its instruction is concerned: its data are staged (R199). -/
def TxFlit.staged (t : TxFlit) (n : Nat) : Bool :=
  match t.owner with
  | some f => f.xfers.all fun x => x.loc || x.port != n || x.xid != t.flit.xid || flitStaged f x t.flit
  | none => true

/-- The flits that a channel has ready, oldest first, those of masked bays apart (R187, R266). -/
def txReady (s : State) (n : Nat) (p : Port) (vc : Nat) : List TxFlit :=
  if p.credit vc = 0 then []
  else
    (((p.waiting vc).map fun k =>
      let f := flitOwner s n k
      ({ flit := k, bay := (f.map (·.bayOf 0)).getD 0, owner := f } : TxFlit)).filter (·.staged n)).filter fun t => bayAwake (s.getB t.bay)

/-- A bay as an input of a link port's arbiter: the class of the stream whose flit it has ready (R262); one that has none ready on the
channel whose turn it is waits. -/
def txInput (s : State) (c other : List TxFlit) (b : Nat) : ArbReq :=
  match c.find? (·.bay == b) with
  | some t => match t.owner with | some f => f.input s b true | none => { i := b, base := 0 }
  | none =>
    match (other.find? (·.bay == b)).bind (·.owner) with
    | some f => f.input s b false
    | none => { i := b, base := 0, eligible := false }

/-- Which channel's turn it is, of VC0 and VC2 with what they have ready: a bay that holds the port goes on; else they alternate
(R187, R265). -/
def txTurn (p : Port) (c0 c2 : List TxFlit) : Nat :=
  let keeps (c : List TxFlit) : Bool := p.arb.any fun x => x.2.hold && c.any (·.bay == x.1)
  let (a, b) := if keeps c0 || keeps c2 then (keeps c0, keeps c2) else (!c0.isEmpty, !c2.isEmpty)
  if a && (!b || !p.turn2) then 0 else 2

/-- The round of step 4 of R187 (R261, Table 7.5): the OPEN or DATA flit that goes, if one is ready, and the port after it; when none is, no
input requests, and none keeps a loss or a grant. -/
def txRound (s : State) (n : Nat) (p : Port) : Option Flit × Port :=
  let c0 := txReady s n p 0
  let c2 := txReady s n p 2
  if c0.isEmpty && c2.isEmpty then (none, { p with arb := [] })
  else
    let vc := txTurn p c0 c2
    let c := if vc = 0 then c0 else c2
    let other := if vc = 0 then c2 else c0
    let bays := (arbBays s).filter fun b => (c0 ++ c2).any (·.bay == b)
    let (won, arb) := arbRound s.cfg.grantHold 1 p.arb (bays.map (txInput s c other))
    match won.head?.bind fun b => c.find? (·.bay == b) with
    | some t => (some t.flit, { p with arb, turn2 := vc == 0 })
    | none => (none, { p with arb })

/-- A new VC flit goes out. -/
def Port.sendNew (p : Port) (f : Flit) : Port := (p.sendVc f).take f

/-- The flit slot of a port in UP (R182, R183, R187, R220): the port after it, and the new OPEN or DATA flit that went. A NAK that goes
while the expected flit is still to come counts towards R186. -/
def sendUp (s : State) (n : Nat) (p : Port) : Port × Option Flit :=
  let idle := mkFlit 0 0 0 []
  let g := s.clk.gclk
  if p.nakDue && !s.held then
    ({ p.send (mkFlit 2 0 0 []) with nakDue := false, nakCnt := if p.recover then p.nakCnt + 1 else p.nakCnt, nakAt := g }, none)
  else if p.helloDue then ({ p.send (mkFlit 1 0 0 (helloPayload s.lnk.self.toNat n p.incarn)) with helloDue := false }, none)
  else if s.held || !p.confirmed then (p.send idle, none)
  else
    match p.resend with
    | f :: r => ({ p.send f with resend := r }, none)
    | [] =>
      if p.replay.length ≥ 384 then (p.send idle, none)
      else
        match p.answer with
        | some f => (p.sendNew f, none)
        | none =>
          match txRound s n p with
          | (some f, p) => (p.sendNew f, some f)
          | (none, p) => (p.send idle, none)

/-- The flit slot of a port, by its state (R179). -/
def sendSlot (s : State) (n : Nat) (p : Port) : Port × Option Flit :=
  match p.state with
  | .down => (p, none)
  | .hello =>
    if p.helloDue then ({ p.send (mkFlit 1 0 0 (helloPayload s.lnk.self.toNat n p.incarn)) with helloDue := false }, none)
    else (p.send (mkFlit 0 0 0 []), none)
  | .up => sendUp s n p
  | .fenced => (p.send (mkFlit 0 0 0 []), none)

/-- What a flit that has gone makes of its transfer: with a DATA flit its receiver has taken its bytes (R199, R200); the first OPEN of a
send begins the time of R206. -/
def Xfer.went (g : Nat) (k : Flit) (x : Xfer) : Xfer :=
  if k.kind = 5 then { x with sent := x.sent + 240, lastAt := g, stallAt := none }
  else if k.kind = 4 && !x.busy then { x with firstAt := g }
  else x

/-- An OPEN or a DATA flit of a transfer has gone. -/
def noteSent (g n : Nat) (k : Option Flit) (f : Flight) : Flight :=
  match k with
  | some k => { f with xfers := f.xfers.map fun x => if !x.loc && x.port == n && x.xid == k.xid then x.went g k else x }
  | none => f

/-- A flit slot of port n (R179, R187). -/
def execTransmitFlit (n : Nat) (s : State) : Out :=
  act s (s.hasPort n) fun s =>
    let (p, k) := sendSlot s n (s.getP n)
    { s.setP n (p.restall s.clk.gclk) with flights := s.flights.map (noteSent s.clk.gclk n k) }

/-! ### Timers -/

/-- The NAK is repeated after 700 GCLK, or, after 16, replay is exhausted (R185, R186). One that falls due in the safe state is held
(R221). -/
def execNakRepeatTimer (n : Nat) (s : State) : Out :=
  let p := s.getP n
  act s (p.state == .up && p.recover && !p.nakDue && decide (s.clk.gclk ≥ p.nakAt + 700)) fun s =>
    if p.nakCnt ≥ 16 then fencePort s n 2 0xF else s.setP n { p with nakDue := true }

/-- No good flit for LNK_TIMEOUT (R216). -/
def execPeerLost (n : Nat) (s : State) : Out :=
  let p := s.getP n
  act s ((p.state == .hello || p.state == .up) && decide (s.clk.gclk ≥ p.goodAt + linkTimeout s)) fun s =>
    fencePort s n 1 0xE

/-- The transfer of an xid on a port ends at its sender (R218): a LINKPUT or send is cut off, an MCAST loses the receiver. Its
instruction's faults are still to be recorded. -/
def abandonXfer (s : State) (n xid : Nat) : State :=
  let s := s.modP n fun p => (p.unqueue xid).restall s.clk.gclk
  match s.flights.find? fun f => f.xfers.any fun x => !x.loc && x.port == n && x.xid == xid && x.result.isNone with
  | none => s
  | some f =>
    if opOf f.raw = some .mcast then
      flightStep (mcastStop (s.setF { f with cut := true, xfers := f.xfers.map fun x =>
        if !x.loc && x.port == n && x.xid == xid then { x with detached := true, result := some 2 } else x }) f.id) f.id
    else cutByLink s f.id

/-- A channel has had flits waiting and no credit for LNK_TIMEOUT while the peer is heard (R218). -/
def execCreditStall (n vc : Nat) (s : State) : Out :=
  let p := s.getP n
  act s (p.state == .up && decide (s.clk.gclk < p.goodAt + linkTimeout s)
      && (match p.stall.getD vc none with | some a => decide (s.clk.gclk ≥ a + linkTimeout s) | none => false)) fun s =>
    let s := if vc = 0 ∨ vc = 2 then each s ((p.waiting vc).map (·.xid)).eraseDups fun s x => abandonXfer s n x
      else s.modP n fun p => (if vc = 1 then { p with tx1 := [] } else { p with tx3 := [] }).restall s.clk.gclk
    recordCuts s [{ src := 0xA, sub := vc, unit := n, detail := p.peerId }]

/-- Whether some flit of a transfer still waits or is not acked. -/
def xferUnacked (p : Port) (xid : Nat) : Bool :=
  (p.tx0 ++ p.tx2 ++ p.replay).any fun f => (f.kind == 4 || f.kind == 5) && f.xid == xid

/-- No RESP for LNK_TIMEOUT after a transfer's last flit is acked, or no DATA for LNK_TIMEOUT at a receiver (R218). -/
def execRemoteTimeout (n xid : Nat) (receiver : Bool) (s : State) : Out :=
  let p := s.getP n
  let late (t : Nat) : Bool := decide (s.clk.gclk ≥ t + linkTimeout s)
  let note (sub : Nat) : Ev := { src := 0xB, sub, unit := n, detail := p.peerId + xid * 2 ^ 16 }
  if receiver then
    match s.rxAt n xid with
    | some f =>
      act s (match f.rx with | some r => !r.lastSeen && !r.ended && late r.at_ | none => false) fun s => endRx (raise s (note 1)) f
    | none =>
      match s.lnk.contribs.find? fun c => c.port == n && c.xid == xid with
      | some c => act s (late c.at_) fun s => cutContrib s c [note 1]
      | none => .next s
  else
    match s.flights.find? fun f => f.xfers.any fun x =>
        !x.loc && x.port == n && x.xid == xid && x.result.isNone && x.busyAt.isNone && late x.lastAt with
    | some f => act s (!xferUnacked p xid && mcFed f) fun s => recordCuts (abandonXfer s n xid) [note 0]
    | none => .next s

end Sys2Proof.Machine
end

