-- ==== Sys2Proof/Machine/Receive.lean ====
section
/-! DEFINITION. Receive.lean: what a link port does with the flits it receives (R179 to R189, R195, R202, R205 to R208, R221). -/
namespace Sys2Proof.Machine

/-- Drops the flits that an acknowledgement covers (R184): up to and including the acked seq, when the list holds it. -/
def ackFlits (ack : Nat) (l : List Flit) : List Flit :=
  if l.any fun f => f.seq == ack then (l.dropWhile fun f => f.seq != ack).tail else l

/-- Transfers whose last flit an acknowledgement covers: their wait for a RESP begins (R218). -/
def noteAcked (g n : Nat) (acked : List Flit) (f : Flight) : Flight :=
  { f with xfers := f.xfers.map fun x =>
      if !x.loc && x.port == n && acked.any (fun z => z.kind == 5 && z.last && z.xid == x.xid) then { x with lastAt := g } else x }

/-- What every good flit with up = 1 tells a port in UP (R183, R184, R189): confirmation, its ack, its credit returns. -/
def hear (s : State) (n : Nat) (f : Flit) : State :=
  let p := s.getP n
  let p := { p with goodAt := s.clk.gclk }
  if p.state != .up || !f.up then s.setP n p
  else
    let kept := ackFlits f.ack p.replay
    let acked := p.replay.take (p.replay.length - kept.length)
    let seen := p.seen.zipIdx.map fun (c, vc) => c + (f.crd.getD vc 0 + 256 - c % 256) % 256
    let p := { p with confirmed := true, replay := kept
                      resend := p.resend.filter fun x => kept.any fun y => y.seq == x.seq
                      seen }
    { s.setP n (p.restall s.clk.gclk) with flights := s.flights.map (noteAcked s.clk.gclk n acked) }

/-- A VC flit of a kind arrives at a port in UP (R183 to R185): in order and confirmed it is delivered by `h`, and a NAK that is due
goes all the same; while the safe
state holds it is discarded at once, its slot freed (R221); otherwise it is discarded. -/
def onVc (s : State) (n kind : Nat) (f : Flit) (h : State → State) : Out :=
  act s (s.hasPort n && f.kind == kind && (flitBad s n f).isNone && ((s.getP n).state == .up || (s.getP n).state == .hello)) fun s =>
    let s := hear s n f
    let p := s.getP n
    if p.state != .up || !p.confirmed || f.seq != (p.ack + 1) % 4096 then s
    else
      let s := s.setP n (({ p with ack := f.seq, recover := false, nakCnt := 0 } : Port).noteOpen f)
      if s.held then freeSlots s n f.vc 1 else h s

/-! ### Flits without a channel -/

/-- A good HELLO (R179, R182). -/
def execReceiveHello (n : Nat) (f : Flit) (s : State) : Out :=
  act s (s.hasPort n && f.kind == 1 && (flitBad s n f).isNone) fun s =>
    let p := s.getP n
    let g := s.clk.gclk
    match p.state with
    | .hello => s.setP n (enterUp g f p)
    | .up =>
      if payNat f 0 2 = p.peerId ∧ payNat f 2 1 = p.peerPort ∧ payNat f 3 1 % 4 = p.peerKind ∧ payNat f 9 1 = p.peerIncarn then
        (hear s n f).modP n fun p => { p with helloDue := true }
      else
        let s := portCut (s.setP n (clearConn p)) n p.held [{ src := 0x17, sub := 4, unit := n, detail := f.kind + f.vc * 16 }]
        s.modP n fun p => { enterUp g f p with helloDue := true }
    | _ => s

/-- A good IDLE (R183, R184, R189, R216). -/
def execReceiveIdle (n : Nat) (f : Flit) (s : State) : Out :=
  act s (s.hasPort n && f.kind == 0 && (flitBad s n f).isNone && ((s.getP n).state == .up || (s.getP n).state == .hello)) fun s =>
    hear s n f

/-- A NAK (R185): every buffered flit after its ack is sent again. -/
def execReceiveNak (n : Nat) (f : Flit) (s : State) : Out :=
  act s (s.hasPort n && f.kind == 2 && (flitBad s n f).isNone && ((s.getP n).state == .up || (s.getP n).state == .hello)) fun s =>
    let s := hear s n f
    let p := s.getP n
    if p.state != .up || !f.up || p.replay.isEmpty then s
    else s.setP n { p with resend := p.replay, replayCnt := p.replayCnt + 1 }

/-- Why bytes that port n receives are a bad flit (R166, R169, R171): none when they are good, else the note's sub, if it raises one. -/
def badFlit (s : State) (n : Nat) (rxBad : Bool) (raw : List Byte) : Option (Option (Nat × Flit)) :=
  if rxBad then some none
  else
    match parseFlit raw with
    | none => some none
    | some f => match flitBad s n f with | some sub => some (some (sub, f)) | none => none

/-- Whether a bad flit raises its note: in HELLO and UP, and a HELLO of another version in every state (R171, R179, R182). -/
def notesFlit (x : PortState) (sub : Nat) : Bool := x == .hello || x == .up || sub == 5

/-- A bad flit (R171, R179, R182, R185, R186): it is counted but in DOWN, which discards what it receives (R179). -/
def execReceiveBadFlit (n : Nat) (rxBad : Bool) (raw : List Byte) (s : State) : Out :=
  match badFlit s n rxBad raw with
  | none => .next s
  | some why =>
    act s (s.hasPort n) fun s =>
      let x := (s.getP n).state
      let s := if x == .down then s else s.modP n fun p => { p with crcCnt := p.crcCnt + 1 }
      let p := s.getP n
      let s := match why with
        | some (sub, f) => if notesFlit x sub then raise s { src := 0x17, sub, unit := n, detail := f.kind + f.vc * 16 } else s
        | none => s
      if x != .up then s
      else if p.recover && decide (p.nakCnt ≥ 16) then fencePort s n 2 0xF
      else s.modP n fun p => { p with recover := true, nakDue := true }

/-! ### Transfers that are received -/

/-- An OPEN for another chip is answered MISROUTE (R177). -/
def misroute (s : State) (n : Nat) (f : Flit) : State :=
  raise (sendResp (freeSlots s n f.vc 1) n f.xid 5) { src := 0x18, unit := n, detail := payNat f 2 2 }

/-- Whether a flit's OPEN names another chip. -/
def otherChip (s : State) (f : Flit) : Bool := payNat f 2 2 != s.lnk.self.toNat

/-- The bay that R446 wakes: the lowest-numbered in Nap, or else in Dormant. -/
def nextSleeper (s : State) : Option Nat :=
  let find (p : Pwr) : Option Nat :=
    (List.range s.cfg.bays).find? fun b => (s.getB b).pwr == p && (s.getB b).waking.isNone && !(s.getB b).faulted
  match find .nap with
  | some b => some b
  | none => find .dormant

/-- Wakes that bay. -/
def wakeSleeper (s : State) : State := match nextSleeper s with | some b => wakeBay s b | none => s

/-- A PUT OPEN (R177, R195): it starts a receive stream, or waits for a context, waking an idle bay. An OPEN whose op is
neither PUT nor REDUCE is discarded (DEDUCED, log 11). A PUT on VC2 is taken, and so is a REDUCE on VC0: Table 6.4 lets an OPEN use
either channel, and the manual ties the op to neither (DESIGN CHOICE, log 39). -/
def execReceiveOpenPut (n : Nat) (f : Flit) (s : State) : Out :=
  act s (payNat f 4 1 != 2) fun s =>
    match onVc s n 4 f (fun s =>
      if otherChip s f then misroute s n f
      else if payNat f 4 1 ≠ 1 then freeSlots s n f.vc 1
      else
        match rxBay s with
        | some b => freeSlots (startRx s n b f) n f.vc 1
        | none =>
          let s := s.modP n fun p => { p with held := p.held ++ [f] }
          match placeBay s s.nextId with
          | some b =>
            match (s.getB b).pwr with
            | .active => s
            | .idle => wakeBay s b
            | _ => wakeSleeper s
          | none => s) with
    | .next s => s
    | _ => s

/-- A REDUCE OPEN (R205, R207): its bin is joined or opened, or it is answered MISMATCH, BUSY or MISROUTE. -/
def openReduce (s : State) (n : Nat) (f : Flit) : State :=
  let rid := payNat f 16 2
  let pcnt := payNat f 18 2
  let exp := sext 16 (payNat f 20 2)
  let rede := payNat f 8 8
  let mark := if payNat f 5 1 ≥ 128 then 32 else payNat f 5 1 % 32
  let chip := payNat f 0 2
  let c : Contrib := { port := n, xid := f.xid, vc := f.vc, chip, rid, mark, elems := rede, at_ := s.clk.gclk }
  let s := freeSlots s n f.vc 1
  match binOf s rid with
  | some b =>
    if binRejects b pcnt rede exp (some mark) then mismatch s n f.xid rid chip
    else
      let s := setBin s { b with mark := some mark }
      { s with lnk.contribs := s.lnk.contribs ++ [c] }
  | none =>
    match openBin s { rid, pcnt, rede, accExp := exp, mark := some mark, accs := [], port := some n, chip } with
    | some s => { s with lnk.contribs := s.lnk.contribs ++ [c] }
    | none =>
      let s := sendResp s n f.xid 3
      if slicesInUse s + slicesOf rede > s.lnk.binLimit then s else wakeSleeper s

/-- A REDUCE OPEN (R177, R205, R207). -/
def execReceiveOpenReduce (n : Nat) (f : Flit) (s : State) : Out :=
  act s (payNat f 4 1 == 2) fun s =>
    match onVc s n 4 f (fun s => if otherChip s f then misroute s n f else openReduce s n f) with
    | .next s => s
    | _ => s

/-- The last DATA flit of a contribution is in: its elements enter the bin, which is answered (R207, R208). -/
def enterContrib (s : State) (c : Contrib) : State :=
  let s := { s with lnk.contribs := s.lnk.contribs.filter fun x => !(x.port == c.port && x.xid == c.xid) }
  match binOf s c.rid with
  | none => s
  | some b =>
    if b.count ≥ b.pcnt then mismatch s c.port c.xid c.rid c.chip
    else
      let w := if c.mark = 32 then 192 else fmtWidth c.mark
      sendResp (setBin s (enterBin b c.mark c.faulted (streamElems w c.elems c.bytes c.chunks))) c.port c.xid (b2n c.faulted)

/-- A DATA flit of a contribution (R208, R215). -/
def contribData (s : State) (c : Contrib) (f : Flit) : State :=
  let c := { c with bytes := c.bytes ++ f.payload, chunks := c.chunks ++ (List.range 15).map f.pmask.getLsbD, at_ := s.clk.gclk }
  let s := { s with lnk.contribs := s.lnk.contribs.map fun x => if x.port = c.port ∧ x.xid = c.xid then c else x
                    lnk.bins := s.lnk.bins.map fun b => if b.rid = c.rid then { b with idle := 0, fed := true } else b }
  if f.last then enterContrib s c else s

/-- A DATA flit (R172, R173, R177, R189): it goes to its receive stream or contribution, waits behind its OPEN, or, when
nothing takes it, is discarded. Its slot is freed once it is handed over. -/
def execReceiveData (n : Nat) (f : Flit) (s : State) : Out :=
  onVc s n 5 f fun s =>
    if (s.getP n).held.any fun o => o.xid == f.xid then s.modP n fun p => { p with held := p.held ++ [f] }
    else
      let s := freeSlots s n f.vc 1
      match s.rxAt n f.xid with
      | some g => rxData s g.id f
      | none =>
        match s.lnk.contribs.find? fun c => c.port == n && c.xid == f.xid with
        | some c => contribData s c f
        | none => s

/-- A CANCEL (R202, R215, R219). -/
def execReceiveCancel (n : Nat) (f : Flit) (s : State) : Out :=
  onVc s n 7 f fun s =>
    let s := freeSlots s n f.vc 1
    let mine := (s.getP n).held.filter fun o => o.xid == f.xid
    if !mine.isEmpty then
      let s := s.modP n fun p => { p with held := p.held.filter fun o => o.xid != f.xid }
      heldAbandoned (freeHeld s n mine) mine
    else
      match s.rxAt n f.xid with
      | some g => endRx s g
      | none =>
        match s.lnk.contribs.find? fun c => c.port == n && c.xid == f.xid with
        | some c => cutContrib s c []
        | none => s

/-- What a RESP makes of its transfer and its instruction (R176, R196, R203, R206, R209). -/
def respAt (g n xid status : Nat) (f : Flight) : Flight :=
  let red := opOf f.raw == some .linkreduce
  let set (h : Xfer → Xfer) : Flight :=
    { f with xfers := f.xfers.map fun x => if !x.loc && x.port == n && x.xid == xid then h x else x }
  if red && status == 3 then set fun x => { x with busyAt := some g, busy := true }
  else
    let f' := set fun x => { x with result := some status }
    if status = 0 then f'
    else if status = 2 then { f' with cut := true }
    else { f' with bad := true }

/-- A RESP (R176, R196, R203, R206, R209, R219). -/
def execReceiveResp (n : Nat) (f : Flit) (s : State) : Out :=
  onVc s n 6 f fun s =>
    let s := freeSlots s n f.vc 1
    match s.flights.find? fun g => g.xfers.any fun x =>
        !x.loc && x.port == n && x.xid == f.xid && x.result.isNone && x.busyAt.isNone && !x.detached with
    | some g => flightStep (s.setF (respAt s.clk.gclk n f.xid (payNat f 0 1) g)) g.id
    | none => s

/-- A receive stream whose writes have all been answered ends (R195, R202): its records, its arrival at rtally, its RESP
unless it was ended early, its context. -/
def execReceiveStreamComplete (n xid : Nat) (s : State) : Out :=
  match s.rxAt n xid with
  | none => .next s
  | some f =>
    match f.rx with
    | none => .next s
    | some r =>
      act s ((r.lastSeen || r.ended || f.cut) && f.wtodo.isEmpty && !s.writes.any fun w => w.flight == f.id) fun s =>
        let s := recordFaults s f.id
        let k : Arr := if r.ended || f.cut then .abandoned else if f.bad then .faulted else .normal
        let s := match r.rtally with | some t => arrive s t k 1 | none => s
        let s := each s f.parts fun s p => if p.gone then s else releasePart s p
        let s := s.dropF f.id
        if r.ended || s.held then s
        else sendResp s n xid (if f.cut then 2 else if f.bad then 1 else 0)

end Sys2Proof.Machine
end

