-- ==== Sys2Proof/Machine/Signals.lean ====
section
/-! DEFINITION. Signals.lean: the signal distributor (R367 to R377). -/
namespace Sys2Proof.Machine

/-- Fields of SIG_SRC_CFG. -/
def Src.en (x : Src) : Bool := x.cfg.getLsbD 31
def Src.sense (x : Src) : Nat := bits x.cfg.toNat 29 2
def Src.fbValid (x : Src) : Bool := x.cfg.getLsbD 28
def Src.fallback (x : Src) : Nat := bits x.cfg.toNat 16 11
def Src.prio (x : Src) : Nat := bits x.cfg.toNat 12 3
def Src.target (x : Src) : Nat := bits x.cfg.toNat 0 11

/-- A rise of the input is sensed (R368). -/
def senseRise (x : Src) (level : Bool) : Src :=
  let x := if level then { x with input := true } else x
  let hit := if x.sense = 0 then !level || !x.active else x.sense == 1 || x.sense == 3
  if x.en && hit then { x with pending := true, sensed := x.sensed || x.sense != 0 || !level } else x

/-- A fall of a level input is sensed (R368). -/
def senseFall (x : Src) : Src :=
  let x := { x with input := false }
  if x.sense = 0 then (if x.setp then x else { x with pending := false })
  else if x.en && (x.sense == 2 || x.sense == 3) then { x with pending := true, sensed := true }
  else x

/-- Withdraws every offer of a source that is no longer pending (R368, R372). -/
def withdraw (g : SigUnit) (n : Nat) : SigUnit :=
  { g with offer := g.offer.map fun (c, o) => (c, if o = some n then none else o) }

/-- Withdraws the offers of a source unless it is still pending. -/
def keepOffer (s : State) (n : Nat) : State := if (s.getS n).pending then s else { s with sig := withdraw s.sig n }

/-- Whether a level input's new value is a change that the latch of a gated distributor has still to catch (R376): one rise and
one fall of it are caught. DEDUCED, log 26. -/
def latches (x : Src) (value : Bool) : Bool :=
  if value then !x.rise && (!x.input || x.fall) else !x.fall && (x.input || x.rise)

/-- The level inputs that are 1 in a GCLK: they follow the registers and states as they stood when it began (R367, R455). -/
def levelInputs (s : State) : List Nat :=
  let t := s.atStart
  (([0, 3, 4, 5, 8] ++ t.lnk.port.keys.map (16 + ·) ++ t.qs.map fun (x : Nat × Queue) => 512 + 16 * x.2.owner).eraseDups).filter
    fun n => srcIsLevel t n && srcLevel t n

/-- A source's level input in the GCLK before, which this one senses (R368). -/
def srcWas (s : State) (n : Nat) : Bool := s.sig.prev.contains n

/-- A change of a source's input is sensed in the GCLK after it, or latched while the distributor's clock is gated (R368, R376). `value`
is the input's new value: for a pulse input, the pulse. -/
def execSignalSourceInput (n : Nat) (value : Bool) (s : State) : Out :=
  let x := s.getS n
  if srcIsPulse n then
    act s (value && x.rise && s.sig.clockOn && x.pulseAt != some s.clk.gclk) fun s => s.setS n { senseRise x false with rise := false }
  else
    act s (srcIsLevel s n && srcWas s n == value && (if s.sig.clockOn then x.input != value else latches x value)) fun s =>
      if s.sig.clockOn then keepOffer (s.setS n (if value then senseRise x true else senseFall x)) n
      else s.setS n (if value then { x with rise := true } else { x with fall := true })

/-- A latched change is sensed as R368 would have sensed it (R376). DEDUCED, log 26. -/
def senseLatched (pulse level : Bool) (x : Src) : Src :=
  if pulse then (if x.rise then { senseRise x false with rise := false } else x)
  else
    let y := if x.rise && x.fall then
        (if level then senseRise (senseFall x) true else senseFall (senseRise x true))
      else if x.rise then senseRise x true else if x.fall then senseFall x else x
    { y with rise := false, fall := false }

/-- The distributor's clock runs: when it was gated, every latched change is sensed (R376). -/
def clockUp (s : State) : State :=
  if s.sig.clockOn then s
  else
    { s with sig.clockOn := true
             sig.src := s.sig.src.map fun (n, x) => (n, senseLatched (srcIsPulse n) (srcWas s n) x) }

/-- The gated clock restarts, and every latched change is sensed (R376). -/
def execDistributorClockRestart (s : State) : Out :=
  act s (!s.sig.clockOn && s.sig.src.any fun (_, x) => x.rise || x.fall) clockUp

/-- The route of a source (R371). -/
def srcRoute (s : State) (n : Nat) : Option Nat :=
  let x := s.getS n
  let t := if n < 512 then x.target else privateCore n
  if !coreMasked s t then some t
  else if x.fbValid && !coreMasked s x.fallback then some x.fallback
  else none

/-- Whether a source is eligible (R372); one that has just become inactive is from the next GCLK on (R370). -/
def eligible (s : State) (n : Nat) : Bool :=
  let x := s.getS n
  x.pending && x.en && !x.active && !x.fresh && (srcRoute s n).isSome && s.sig.enable && !s.held

/-- Whether a core may be offered a source: it is eligible and routed to the core. -/
def offerable (s : State) (core n : Nat) : Bool := eligible s n && srcRoute s n == some core

/-- The source a core is to be offered (R372): greatest prio, then greatest number. -/
def bestSource (s : State) (core : Nat) : Option Nat :=
  (s.sig.src.keys.filter (offerable s core)).foldl (fun m n =>
    match m with
    | none => some n
    | some a => if (s.getS a).prio < (s.getS n).prio ∨ ((s.getS a).prio = (s.getS n).prio ∧ a < n) then some n else some a) none

/-- A core is offered its best eligible source, or none: the offer comes in the GCLK after the source became eligible, so it goes by
the block as the GCLK began, and by what this GCLK has left eligible (R372). A source is on offer at one core. -/
def execVectorOffer (core : Nat) (s : State) : Out :=
  act s s.sig.clockOn fun s =>
    match bestSource s.atStart core with
    | some n =>
      if offerable s core n then { s with sig := { withdraw s.sig n with offer := (withdraw s.sig n).offer.put core (some n) } }
      else { s with sig.offer := s.sig.offer.put core none }
    | none => { s with sig.offer := s.sig.offer.put core none }

/-- The vector on offer transfers: its source becomes active, and is on offer nowhere; it stays pending when an edge is sensed in the same
GCLK (R369, R375). -/
def execVectorTransfer (core : Nat) (s : State) : Out :=
  match s.sig.offer.getD none core with
  | none => .next s
  | some n =>
    act s (!(s.getS n).active) fun s =>
      let s := s.setS n { s.getS n with active := true, core, pending := (s.getS n).sensed, setp := false }
      { s with sig := withdraw s.sig n }

/-- iv_addr of a source: bits 47:2 of its SIG_VEC (Table 10.4). -/
def ivAddr (s : State) (n : Nat) : Nat := bits (s.getS n).vec.toNat 2 46

/-- A write to SIG_EOI (R370): the source stays active during this GCLK. -/
def execSigEoi (port : Nat) (value : Word) (s : State) : Out :=
  wr (.sigEoi port value) s port 0x20004 (fun _ => true) fun s =>
    let n := bits value.toNat 0 16
    if (s.getS n).active then s.setS n { s.getS n with eoi := true }
    else { s with sig.stray := s.sig.stray + 1 }

/-- Whether a source number has an input (R367): a reserved one's is always 0, but it can be set pending. -/
def sReg (n off : Nat) : Nat := 0x100000 + 16 * n + off

/-- SIG_PEND.set: an enabled source becomes pending (R368). -/
def setPend (s : State) (n : Nat) : State :=
  if (s.getS n).en then (clockUp s).modS n fun x => { x with pending := true, setp := true } else s

/-- SIG_PEND.clr: the source is no longer pending (R368). -/
def clrPend (s : State) (n : Nat) : State := keepOffer (s.setS n { s.getS n with pending := false, setp := false }) n

/-- A write of SIG_PEND.set (R368). -/
def execSigPendSet (port n : Nat) (s : State) : Out := wr (.sigPendSet port n) s port (sReg n 4) (fun _ => decide (n < 33280)) fun s => setPend s n

/-- A write of SIG_PEND.clr (R368). -/
def execSigPendClr (port n : Nat) (s : State) : Out := wr (.sigPendClr port n) s port (sReg n 4) (fun _ => decide (n < 33280)) fun s => clrPend s n

/-- Every offer is withdrawn: delivery stops (R377). -/
def withdrawAll (s : State) : State := { s with sig.offer := s.sig.offer.map fun (c, _) => (c, none) }

/-- A write to SIG_GLOBAL (R377). -/
def execSigGlobalEnable (port : Nat) (value : Word) (s : State) : Out :=
  wr (.sigGlobalEnable port value) s port 0x20000 (fun _ => true) fun s =>
    let s := { s with sig.enable := value.getLsbD 0 }
    if value.getLsbD 0 then s else withdrawAll s

/-- A write to SIG_SRC_CFG: clearing en clears pending (R368); a private source's target is read-only. -/
def setSrcCfg (s : State) (n : Nat) (v : Word) : State :=
  let keep := v &&& 0xF7FF77FF#32
  let cfg := if n < 512 then keep else (keep &&& 0xFFFFF800#32) ||| BitVec.ofNat 32 (privateCore n)
  let x := { s.getS n with cfg }
  keepOffer (s.setS n (if v.getLsbD 31 then x else { x with pending := false, setp := false })) n

/-- What a GCLK's end does to a source: an end of interrupt takes effect (R370), and a source that is level-sensed, whose sensed input is 1
and which is not active, is pending in each GCLK (R368, R369). -/
def srcStep (x : Src) : Src :=
  let x := { x with active := x.active && !x.eoi, eoi := false, sensed := false, fresh := x.active && x.eoi }
  if x.en && x.sense == 0 && x.input && !x.active then { x with pending := true } else x

/-- One GCLK of the distributor: its level inputs are those of the GCLK that ends, offers that no longer hold are dropped (R372), and its
clock runs when a source is pending or on offer, and is gated otherwise (R376). -/
def sigPass (s : State) : State :=
  let s := { s with sig.prev := levelInputs s, sig.src := s.sig.src.map fun (n, x) => (n, srcStep x) }
  let s := { s with sig.offer := s.sig.offer.map fun (c, o) =>
    (c, match o with | some n => if offerable s c n then o else none | none => none) }
  if s.sig.src.any (fun (_, x) => x.pending) || s.sig.offer.any (fun (_, o) => o.isSome) then
    let s := clockUp s
    { s with sig.src := s.sig.src.map fun (n, x) => (n, { x with sensed := false }) }
  else { s with sig.clockOn := false }

end Sys2Proof.Machine
end

