-- ==== Sys2Proof/Machine/Faults.lean ====
section
/-! DEFINITION. Faults.lean: the fault unit's registers, the safe state, recovery, bay and granger faults, ECC (R384 to R399). -/
namespace Sys2Proof.Machine

/-- What a write to FLT_ACK does at the end of its GCLK: a class that the GCLK has recorded stays unacknowledged (R385). -/
def ackClasses (f : FaultUnit) (v : Word) : FaultUnit :=
  [1, 2, 3].foldl (fun f k => if v.getLsbD (k - 1) && !f.hits.contains k then { f with unack := f.unack.put k false } else f) f

/-- A write to a register of the fault unit waits for the end of its GCLK (R384). -/
def fltWrite (s : State) (off : Nat) (v : Word) : State := { s with flt.writes := s.flt.writes ++ [(off, v)] }

/-- A write to FLT_ACK (R385). -/
def execFltAck (port : Nat) (value : Word) (s : State) : Out :=
  wr (.fltAck port value) s port 0x10004 (fun _ => true) fun s => fltWrite s 0x10004 value

/-- A write to FLT_INJECT: in factory test mode, one injected event (R399). DESIGN CHOICE, log 32. -/
def execFltInject (port : Nat) (value : Word) (s : State) : Out :=
  wr (.fltInject port value) s port 0x10014 (fun s => s.flt.testMode && value.getLsbD 31) fun s => fltWrite s 0x10014 value

/-- A write to FLT_SRC_CFG; a reserved source ignores it (R384). -/
def execFltSrcCfgWrite (port src : Nat) (value : Word) (s : State) : Out :=
  wr (.fltSrcCfgWrite port src value) s port (0x10100 + 4 * src) (fun _ => srcDefined src) fun s => fltWrite s (0x10100 + 4 * src) value

/-- A write to a fault-unit register takes effect: FLT_ACK, FLT_QUIET, FLT_INJECT, or a FLT_SRC_CFG, whose source's count begins anew
(R384, R385, R399). -/
def fltApply (s : State) (w : Nat × Word) : State :=
  let v := w.2
  match w.1 with
  | 0x10004 => { s with flt := ackClasses s.flt v }
  | 0x1000C => { s with flt.quietCfg := BitVec.ofNat 16 (max 1 (v.toNat % 65536)) }
  | 0x10014 => raise s { src := bits v.toNat 16 8, unit := bits v.toNat 0 16, injected := true }
  | _ =>
    let src := (w.1 - 0x10100) / 4
    { s with flt.cfg := s.flt.cfg.put src (v &&& 0xFFFFFF07#32), flt.cnt := s.flt.cnt.put src 0 }

/-- Puts an event in its place by source and unit (R382). -/
def evInsert (e : Ev) : List Ev → List Ev
  | [] => [e]
  | x :: r => if e.src < x.src ∨ (e.src = x.src ∧ e.unit < x.unit) then e :: x :: r else x :: evInsert e r

/-- The self-test's queues (Table 13.3). -/
def testQueues : List Nat := (List.range 8).map (65528 + ·)

/-- The self-test has failed: its queues are aborted under R270 (R441). -/
def abortTest (s : State) : State := recordCuts (each s testQueues fun s q => abortQueue s q true) []

/-- The events of this GCLK are classified by ascending source, then unit, each against the state that those before it left, with one
tick (R382). -/
def recordAll (s : State) : State :=
  { each s (s.flt.evs.foldl (fun l e => evInsert e l) []) record with flt.evs := [] }

/-- The events of this GCLK are classified; a class D record that fails the self-test aborts its queues (R432, R441). -/
def classifyPass (s : State) : State :=
  let t := recordAll s
  if t.eng.state = .test ∧ s.eng.cause = 0 ∧ t.eng.cause ≠ 0 then abortTest t else t

/-- A tick that has been counted: quiet advances while level is not 0, unless a fault was recorded in this GCLK; reaching FLT_QUIET, as it
stood when the GCLK began, makes recovery due (R384, R394). -/
def tickFault (limit : Nat) (f : FaultUnit) : FaultUnit :=
  if f.level = 0 ∨ f.hits ≠ [] then f
  else
    let n := satAdd 16 f.quiet 1
    { f with quiet := n, recDue := f.recDue || decide (n ≥ limit) }

/-! ### The safe state (R390 to R395) -/

/-- Whether a queue is aborted on entering the safe state: ENABLED, DRAINING, or ERROR with unretired instructions. -/
def safeAborts (s : State) (q : Nat) : Bool :=
  let y := s.getQ q
  y.state == .enabled || y.state == .draining
  || (y.state == .error && (y.win.any (fun x => x.st == .dispatched) || !(queueFlights s q).all (·.parts.isEmpty)))

/-- A receive stream ends as R202 states, and what no port has accepted for it is withdrawn: the safe state grants nothing more (R390,
R391). -/
def safeRx (s : State) (f : Flight) : State := each (endRx s f) (List.range f.parts.length) fun s i => withdrawPart s f.id i

/-- The OPENs that wait at a port for a context are discarded, their slots freed (R221, R390, DEDUCED, log 11). -/
def dropHeld (s : State) (n : Nat) : State :=
  let held := (s.getP n).held
  heldAbandoned (freeHeld (s.modP n fun p => { p with held := [] }) n held) held

/-- A wire whose pulse is in progress as the hold begins is marked, and low (R357, R377). -/
def markWire (g : Nat) (x : Wire) : Wire := if x.busy g then { marked := true } else { marked := x.marked }

/-- The safe state is entered in the GCLK after a class D record (R390). -/
def execSafeStateEntry (s : State) : Out :=
  act s (s.flt.safeDue && s.eng.state == .service) fun s =>
    let s := { s with eng.state := .safe, flt.safe := true, flt.safeDue := false
                      tal.wire := s.tal.wire.map fun (n, x) => (n, markWire s.clk.gclk x) }
    let s := withdrawAll s
    let s := each s (s.qs.keys.filter (safeAborts s)) fun s q => abortQueue s q false
    let s := each s (s.flights.filter (·.rx.isSome)) safeRx
    let s := each s s.lnk.port.keys dropHeld
    abandonBins s s.lnk.bins []

/-- Whether every write that a port accepted has been answered (R393), the write-backs of released locks with them (R391). DEDUCED,
log 21. -/
def writesEnded (s : State) : Bool :=
  s.writes.isEmpty && s.owed.isEmpty && s.adm.idxWr.isEmpty && s.adm.cplWr.isNone
  && s.qs.all (fun (_, y) => y.headWrs.isEmpty) && s.hst.all fun (_, h) => h.wr.isNone

/-- A marked wire pulses from the GCLK after the release, which is the one after the recovery (R377, R395). -/
def releaseWire (g : Nat) (x : Wire) : Wire := if x.marked then { firedAt := some (g + 1), since := g + 1 } else x

/-- The recovery of this GCLK (R394): the fault unit decides at its end, after the GCLK's events and its tick. DEDUCED, log 28. -/
def execRecovery (s : State) : Out := act s (s.flt.level != 0) fun s => { s with flt.recover := true }

/-- Whether the engine recovers in this GCLK: the quiet period has ended without a fault, and so has the safe state's wait (R393, R394). -/
def recovers (s : State) : Bool := s.flt.recover && s.flt.recDue && s.flt.level != 0 && (!s.held || writesEnded s)

/-- Recovery (R394, R395): the fault level clears, and the safe state ends; its holds end with the GCLK. -/
def recoverNow (s : State) : State :=
  let t := { s with flt.level := 0, flt.safe := false, flt.recDue := false, flt.recovCnt := s.flt.recovCnt + 1 }
  if !s.held then t
  else pumpAll { t with eng.state := .service, tal.wire := s.tal.wire.map fun (n, x) => (n, releaseWire s.clk.gclk x) }

/-- The end of a GCLK in the fault unit: its events are classified, its tick is counted and the recovery test made, and then the registers
take what it has written to them (R382, R384, R394). -/
def fltPass (s : State) : State :=
  let s := classifyPass s
  let s := if s.ticked then { s with flt := tickFault s.start.flt.quietCfg.toNat s.flt } else s
  let s := if recovers s then recoverNow s else s
  let t := each s s.flt.writes fltApply
  { t with flt.writes := [], flt.hits := [], flt.recover := false }

/-! ### Bay faults (R396, R397) -/

/-- The parts that a bay holds: flight and part number. An MCAST's list read is none: it waits for the bay (R197). -/
def partsOn (s : State) (b : Nat) : List (Nat × Nat) :=
  s.flights.flatMap fun f => f.parts.zipIdx.filterMap fun (p, i) =>
    if p.bay == b && p.ctx.isSome && !p.gone && !(isListRead f) then some (f.id, i) else none

/-- A part is aborted by its bay's fault (R396): of a link instruction, its transfers are cancelled with it; the entry of its
instruction never retires (R301). DEDUCED, log 22. -/
def faultPart (s : State) (id i : Nat) : State :=
  match s.flightOf id with
  | none => s
  | some f =>
    let s := if f.rx.isNone && (!f.xfers.isEmpty || f.port.isSome) then abortFlight s id true else cutPart s id i
    let s := if f.rx.isSome then s else s.modQ f.q fun y => match y.slotAt f.pos with
      | some x => if x.st == .dispatched then y.setSlot { x with st := .aborted } else y
      | none => y
    flightStep s id

/-- A bay fault (R396). -/
def execBayFault (bay cause ctx : Nat) (s : State) : Out :=
  act s (s.hasBay bay) fun s =>
    let s := s.modB bay fun y => { y with faulted := true, clearAt := none, waking := none, pwr := .active }
    let s := each s (partsOn s bay) fun s (id, i) => faultPart s id i
    clearBegins (abandonBins s (s.lnk.bins.filter fun b => b.slices.contains bay) [{ src := 0x10, sub := cause, unit := bay, detail := ctx }]) bay

/-- Drops the reads of a cleared bay but for locked reads whose granule is still to be written back (R269, R397), and for a list read, which
the bay's fault does not cut (R197). DEDUCED, log 22. -/
def dropReads (s : State) (b : Nat) : State :=
  let owed (r : Read) : Bool := r.req.lock && s.owed.any fun l => l.flight == r.flight && (granulesOf r.pa r.req.len).contains l.granule
  let listed (r : Read) : Bool := match s.flightOf r.flight with | some f => isListRead f | none => false
  let gone := s.reads.filter fun r => r.bay == b && !owed r && !listed r
  { s with reads := s.reads.filter fun r => !(r.bay == b && !owed r && !listed r)
           inv := s.inv.map fun v => { v with reads := v.reads.filter fun x => !gone.any fun r => (r.bay, r.tag) == x } }

/-- A cleared bay returns to service (R397): contexts, tracker, map cache and loft cleared. -/
def execBayClearDone (bay : Nat) (s : State) : Out :=
  let y := s.getB bay
  act s (y.faulted && !s.writes.any (·.bay == bay)
      && (match y.clearAt with | some a => decide (s.clk.gclk ≥ a + 2048) | none => false)) fun s =>
    pumpAll ((dropReads s bay).setB bay { y with faulted := false, clearAt := none, ctxs := [], loft := 0, loftClear := true, mapc := [], xl := []
                                                 defer := [], since := s.clk.gclk })

/-! ### Granger faults (R398, R441) -/

/-- A granger fault (R398): it is held in reset; during the self-test it fails it (R441). -/
def execGrangerFault (cause : Nat) (pc : Word) (s : State) : Out :=
  act s (!s.eng.gHeld && s.eng.gFaultAt.isNone) fun s =>
    let s := raise s { src := 0x11, sub := cause, detail := pc.toNat }
    if s.eng.state == .test then
      let t := { s with eng.cause := if s.eng.cause = 0 then 0x12 else s.eng.cause, eng.gHeld := true }
      if s.eng.cause = 0 then abortTest t else t
    else { s with eng.gFaultAt := some s.clk.gclk }

/-- The command that was being carried out begins anew, unless its completion is being written (R398). -/
def restartCmd (wires : Nat) (c : AdmCmd) : AdmCmd :=
  match c.phase with
  | .writing | .written | .indexing => c
  | _ => { c with phase := if admCheck wires c.raw = 0 then .ready else .done (admCheck wires c.raw) 0 }

/-- After 1,024 GCLK the granger restarts its image (R398): the command and every ATS invalidation begin anew. -/
def execGrangerRestart (s : State) : Out :=
  act s (match s.eng.gFaultAt with | some a => decide (s.clk.gclk ≥ a + 1024) | none => false) fun s =>
    let ats := s.inv.filter fun v => v.itag.isSome
    let s := { feDiscard s (· == .codebook) with eng.gFaultAt := none, inv := [], adm.cmd := s.adm.cmd.map (restartCmd s.cfg.wakeWires) }
    each s ats fun s v => invalidate s v.itag v.range

/-! ### ECC (R254, Table 7.4) -/

/-- The unit of an ECC event (Table 11.2). -/
def eccUnit (structure_ unit : Nat) : Nat := if structure_ = 2 then 0x100 + unit else unit

/-- A corrected error (R254). -/
def execEccCorrected (structure_ unit word : Nat) (s : State) : Out :=
  act s (decide (structure_ < 3)) fun s => raise s { src := 5, sub := structure_, unit := eccUnit structure_ unit, detail := word }

/-- The first element of a flight's stream that block `k` of bytes feeds, when `elem` is the first that they feed (R242). -/
def blockElem (f : Flight) (side : Side) (elem va k : Nat) : Nat :=
  elem + 8 * ((va / 64 + k) * 64 - va) / sideWidth f side * sideFeeds f side

/-- Poisons block `k` of the i-th of the bytes that a flight holds (DEDUCED, log 17), and notes what they feed; a receive stream that
has no write to issue holds chunks of its element string. -/
def poisonHeld (f : Flight) (i k : Nat) : Flight :=
  match f.land[i % max 1 f.land.length]?, f.wtodo[i % max 1 f.wtodo.length]?, f.rx with
  | some l, _, _ =>
    let k := k % blocksOf l.va l.data.length
    let l' := { l with psn := l.psn ||| BitVec.ofNat 5 (2 ^ k) }
    flightBad { f with land := f.land.set (i % max 1 f.land.length) l' } (blockElem f l.side l.elem l.va k)
  | none, some w, _ =>
    let k := k % blocksOf w.va w.data.length
    let w' := { w with psn := w.psn ||| BitVec.ofNat 5 (2 ^ k) }
    flightBad { f with wtodo := f.wtodo.set (i % max 1 f.wtodo.length) w' } (blockElem f w.side w.elem w.va k)
  | none, none, some r => flightBad { f with rx := some { r with chunks := r.chunks.set ((4 * i + k) % max 1 r.chunks.length) true } } 0
  | none, none, none => flightBad f 0

/-- Marks chunk `k` of the i-th DATA flit of a transfer among flits that wait (R172). -/
def markNth (xid k : Nat) : Nat → List Flit → List Flit
  | _, [] => []
  | i, f :: r =>
    if f.kind = 5 ∧ f.xid = xid then
      match i with
      | 0 => { f with pmask := f.pmask ||| BitVec.ofNat 15 (2 ^ (k % 15)) } :: r
      | i + 1 => f :: markNth xid k i r
    else f :: markNth xid k i r

/-- Poisons staged link data: of each transfer of a flight, chunk `k` of the i-th DATA flit that waits (R172, R254). -/
def poisonStaged (s : State) (f : Flight) (i k : Nat) : State :=
  each s (f.xfers.filter fun x => !x.loc) fun s x => s.modP x.port fun p =>
    let n (l : List Flit) : Nat := i % max 1 (l.filter fun t => t.kind == 5 && t.xid == x.xid).length
    { p with tx0 := markNth x.xid k (n p.tx0) p.tx0, tx2 := markNth x.xid k (n p.tx2) p.tx2 }

/-- Poisons the i-th accumulator of a bin, of 17 bytes each: what is entering the bin is answered FAULTED, and the home's arrival is
faulted (R208, R210, R254). -/
def poisonBin (s : State) (b : Bin) (i : Nat) : State :=
  let s := setBin s { b with faulted := true, accs := b.accs.zipIdx.map fun (a, j) => if j = i % max 1 b.accs.length then accFlag a 16 else a }
  { s with lnk.contribs := s.lnk.contribs.map fun c => if c.rid = b.rid then { c with faulted := true } else c }

/-- The bin whose accumulators a home waits for. -/
def homeBin (s : State) (f : Flight) : Option Bin :=
  if f.stage = .second then s.lnk.bins.find? fun b => b.home == some f.id else none

/-- An uncorrectable error in what an instruction holds in the loft or the landing slots. -/
def poisonFlight (s : State) (f : Flight) (word : Nat) : State :=
  let s := match homeBin s f with | some b => poisonBin s b (8 * word / 17) | none => s
  (poisonStaged s f (word / 30) (word % 30 / 2)).setF (poisonHeld f (word / 32) (word % 32 / 8))

/-- What a bay's loft and landing slots hold for no entry of a queue: receive streams, and in the loft the slices of bins. The i-th of
them is struck (DEDUCED, log 17). -/
def poisonBay (s : State) (loft : Bool) (bay i word : Nat) : State :=
  let rxs := s.flights.filter fun f => f.rx.isSome && f.parts.any fun p => p.bay == bay && !p.gone
  let bins := if loft then s.lnk.bins.filter fun b => b.slices.contains bay else []
  let n := i % max 1 (rxs.length + bins.length)
  match rxs[n]? with
  | some f => s.setF (poisonHeld f (word / 32) (word % 32 / 8))
  | none => match bins[n - rxs.length]? with | some b => poisonBin s b (8 * word / 17) | none => s

/-- The line of a slice that word i × 64 of it lies in: the i-th of those present (DEDUCED, log 17). -/
def struckLine (s : State) (slice i : Nat) : Option Line :=
  (s.gran.lines.filter (·.slice == slice))[i % max 1 (s.gran.lines.filter (·.slice == slice)).length]?

/-- Poisons block `k` of the i-th line of a slice (DEDUCED, log 17). -/
def poisonLine (s : State) (slice i k : Nat) : State :=
  match struckLine s slice i with
  | none => s
  | some l => { s with gran.lines := s.gran.lines.map fun x => if x = l then { x with psn := x.psn ||| BitVec.ofNat 8 (2 ^ k) } else x }

/-- The first virtual byte, of `len` from `va` on as bay b's map has them, that lies in port-local bytes lo to lo + 63 of a slice. -/
def firstInBlock (s : State) (b slice lo va len : Nat) : Option Nat :=
  firstSome ((portPieces s b va len).getD []) fun p =>
    match decodePa s p.pa with
    | some (n, lpa) => if n = slice ∧ lpa < lo + 64 ∧ lo < lpa + p.len then some (p.va + (max lpa lo - lpa)) else none
    | none => none

/-- The first element that block `k` of a granary line feeds, of the bytes that an instruction has read or is reading (R242): all of them
when it has none of that block's. -/
def lineElem (s : State) (f : Flight) (x : Line) (k : Nat) : Nat :=
  let lo := 512 * x.line + 64 * k
  let hit (side : Side) (elem va len : Nat) : Option Nat :=
    firstSome f.parts fun p =>
      (firstInBlock s p.bay x.slice lo va len).map fun a => blockElem f side elem va (a / 64 - va / 64)
  let l := f.land.filterMap (fun l => hit l.side l.elem l.va l.data.length)
    ++ (s.reads.filter (·.flight == f.id)).filterMap fun r => hit r.req.side r.req.elem r.req.va r.req.len
  match l with
  | [] => 0
  | a :: l => l.foldl min a

/-- An uncorrectable error (R254, Table 7.4): the block is poisoned, and the instruction's arrival is faulted. `word` counts the
structure's 8-byte words; where `q` and `pos` name no instruction, `pos` says which of the bay's other holdings is struck. -/
def execEccUncorrectable (structure_ unit word q pos : Nat) (s : State) : Out :=
  act s (decide (structure_ < 3)) fun s =>
    let f := s.flightAt q pos
    let hit := if structure_ = 2 then struckLine s unit (word / 64) else none
    let s := if structure_ = 2 then poisonLine s unit (word / 64) (word % 64 / 8) else s
    let s := match f with
      | some f =>
        if structure_ = 2 then s.setF (flightBad f (match hit with | some x => lineElem s f x (word % 64 / 8) | none => 0))
        else poisonFlight s f word
      | none => if structure_ = 2 then s else poisonBay s (structure_ == 0) unit pos word
    raise s { src := 4, sub := structure_, unit := eccUnit structure_ unit, inst := f.map fun g => (g.q, g.pos), detail := word }

end Sys2Proof.Machine
end

