-- ==== Sys2Proof/Machine/Startup.lean ====
section
/-! DEFINITION. Startup.lean: the firmware load, the self-test, the resets and the freeze (R431 to R443, R427). -/
namespace Sys2Proof.Machine

/-! ### The firmware image (R434 to R438) -/

/-- Whether the start-up registers can be written, and a load accepted (R434, R435). -/
def mayLoad (s : State) : Bool :=
  s.eng.state == .cold || ((s.eng.state == .load || s.eng.state == .test) && s.eng.cause != 0)

/-- The self-test's queues are destroyed and its tallies return to their reset values (Table 13.3, R442). -/
def dropTest (s : State) : State :=
  let s := each s ((List.range 8).map (16376 + ·)) fun s t => s.setT t {}
  each s testQueues fun s q => s.setQ q {}

/-- A load begins (R435); no work queue exists in LOAD (Table 13.1). -/
def beginLoad (s : State) (reuse : Bool) : State :=
  let s := if s.eng.state = .test then dropTest s else s
  { s with eng.gHeld := true, eng.cause := 0, eng.testBays := 0#64, eng.state := .load, eng.since := s.clk.gclk
           eng.reuse := reuse, eng.hashing := false, eng.imgAt := 0 }

/-- The length check of R436. -/
def lenOk (s : State) : Bool :=
  let n := s.eng.fwLen.toNat
  n % 64 == 0 && decide (64 ≤ n) && decide (n ≤ 1048576)

/-- A write of go to ENG_FW_GO without reuse (R435, R436): `image` is what the memory holds at ENG_FW_BASE. DESIGN CHOICE, log 29. -/
def execFwLoad (port : Nat) (image : List Byte) (s : State) : Out :=
  wr (.fwLoad port image) s port 0x2C mayLoad fun s =>
    let s := beginLoad s false
    if s.eng.fwBase.toNat % 64 ≠ 0 ∨ !lenOk s then stopLoad s 4
    else { s with eng.gmem := s.eng.gmem.writeAll 0 (sliceBytes image 0 s.eng.fwLen.toNat), eng.hashing := true }

/-- A write of go and reuse to ENG_FW_GO (R435, R436). -/
def execFwReuse (port : Nat) (s : State) : Out :=
  wr (.fwReuse port) s port 0x2C mayLoad fun s =>
    let s := beginLoad s true
    if !s.eng.imgKept then stopLoad s 5
    else if !lenOk s then stopLoad s 4
    else { s with eng.hashing := true }

/-- Whether a read-load is in progress. -/
def loading (s : State) : Bool := s.eng.state == .load && s.eng.cause == 0 && s.eng.hashing

/-- Issues the next image reads, in address order, as many of n as the front end has room for (R413, R436). -/
def imageReads : Nat → State → State
  | 0, s => s
  | n + 1, s =>
    let o := s.eng.imgAt
    if s.eng.fwLen.toNat ≤ o then s
    else
      let k := min 256 (s.eng.fwLen.toNat - o)
      match feTry s (.image o) false (s.eng.fwBase.toNat + o) k with
      | some t => imageReads n { t with eng.imgAt := o + k }
      | none => s

/-- Image bytes that have been hashed: a 128-byte block every 40 GCLK (R437). -/
def hashed (s : State) : Nat := 128 * ((s.clk.gclk - s.eng.since) / 40)

/-- The image's reads go out one after another, each with a limit of its own (R287, R436). The table has no row for their responses: a
read counts as answered once its bytes have been hashed (DESIGN CHOICE, log 29). -/
def imagePass (s : State) : State :=
  if loading s && !s.eng.reuse then
    let read := s.fe.filterMap fun r =>
      match r.use with
      | .image o => if !r.gone && decide (min (o + 256) s.eng.fwLen.toNat ≤ hashed s) then some o else none
      | _ => none
    imageReads 16 (each s read.eraseDups fun s o => feDone s (.image o))
  else s

/-- An image read times out, or returns an error or poison (R436). -/
def execImageReadFailure (timeout : Bool) (s : State) : Out :=
  act s (loading s && s.fe.any fun r => feImage r.use && !r.gone && (!timeout || s.feLate r.due)) fun s => stopLoad s (if timeout then 3 else 2)

/-- GCLK that the hash of n bytes takes (R437). -/
def hashTime (n : Nat) : Nat := 40 * ((n + 16) / 128 + 1)

/-- The expected digest (R437). -/
def expectedDigest (s : State) : List Byte := (List.range 12).flatMap fun n => leBytes (s.eng.digest.getD 0#32 n).toNat 4

/-- The engine enters SERVICE. -/
def toService (s : State) : State :=
  { s with eng.state := .service, eng.gHeld := false }

/-- The self-test begins (R439, Table 13.3): its queues exist, in cached-ring mode, and what its program makes of their counters and of
its tallies is open (free values; DESIGN CHOICE, log 29). -/
def beginTest (s : State) : State :=
  let s := each s testQueues fun s q =>
    let (e, s) := s.freeDWord
    let (c, s) := s.freeDWord
    s.setQ q { state := .enabled, cached := true, k := 4, ringBase := s.eng.testBase.toNat, headAddr := s.eng.testBase.toNat
               fetchAddr := s.eng.testBase.toNat, idxBase := s.eng.testBase.toNat, elemCnt := e.toNat, clipCnt := c.toNat }
  each { s with eng.state := .test } ((List.range 8).map (16376 + ·)) fun s t =>
    let (v, s) := s.freeDWord
    let target := bits v.toNat 0 20
    s.setT t { target, count := bits v.toNat 20 20 % max 1 target }

/-- The digest is compared in the GCLK after the last block (R437, R438), and the engine enters TEST or SERVICE; a misaligned self-test
memory fails the self-test at once (R440). -/
def execFwDigestCheck (s : State) : Out :=
  act s (loading s && decide (s.clk.gclk > s.eng.since + hashTime s.eng.fwLen.toNat)) fun s =>
    if sha384 (s.eng.gmem.readN 0 s.eng.fwLen.toNat) = expectedDigest s then
      let s := { s with fe := s.fe.filter fun r => !feImage r.use || r.gone
                        eng.imgKept := true, eng.hashing := false, eng.gHeld := false, eng.since := s.clk.gclk }
      if s.eng.skipTest then toService s
      else if s.eng.testBase.toNat % 2097152 ≠ 0 then { s with eng.state := .test, eng.cause := 0x11, eng.gHeld := true }
      else beginTest s
    else stopLoad s 1

/-! ### The self-test (R439 to R442) -/

/-- Whether the self-test runs. -/
def testing (s : State) : Bool := s.eng.state == .test && s.eng.cause == 0

/-- The self-test passes (R442): what it used is as after reset, every cache is invalid, and the engine enters SERVICE.
DESIGN CHOICE, log 29. -/
def execSelfTestPass (s : State) : Out :=
  act s (testing s) fun s =>
    let s := granInvalidate { s with bay := s.bay.map fun (b, y) => (b, { y with mapc := [], defer := [] }) }
    toService (dropTest s)

/-- The self-test fails under a cause: the granger halts, and the self-test's queues are aborted (R441). -/
def failTest (s : State) (cause : Nat) : State := abortTest { s with eng.cause := cause, eng.gHeld := true }

/-- A test of a bay or of a shared unit fails (R441). -/
def execSelfTestFail (cause bay : Nat) (s : State) : Out :=
  act s (testing s && (cause == 0x10 || cause == 0x11)) fun s =>
    failTest (if cause = 0x10 then { s with eng.testBays := s.eng.testBays ||| BitVec.ofNat 64 (2 ^ (bay % 64)) } else s) cause

/-- TEST has lasted 2^26 GCLK (R441). -/
def execSelfTestTimeout (s : State) : Out :=
  act s (testing s && decide (s.clk.gclk ≥ s.eng.since + 2 ^ 26)) fun s => failTest s 0x13

/-! ### Resets and freeze -/

/-- The pins of the link ports keep their levels across a reset (DESIGN CHOICE, log 6). -/
def pinsOnly (s : State) : Tbl Port :=
  (s.lnk.port.filter fun (_, p) => p.phyUp).map fun (n, p) => (n, { phyUp := p.phyUp })

/-- The block after a reset: everything at its reset value but the inputs, the commands that wait, and the number of the
next free value. -/
def afterReset (s : State) : State :=
  let z := State.resetOf s.cfg
  { z with pending := s.pending, free := s.free, masks := s.masks, falls := s.falls, dbg.factory := s.dbg.factory, lnk.port := pinsOnly s }

/-- The cold reset (R403, R443): the whole block, the debug domain too. -/
def execColdReset (s : State) : Out := .next (afterReset s).fresh

/-- The warm reset (R443): the items of Table 13.4 keep their contents, with the records of this GCLK (R388; DEDUCED, log 28), and
the sorted bits are recomputed (R98). -/
def execWarmReset (s : State) : Out :=
  let s := recordAll s
  let z := { afterReset s with
    crib := { mem := s.crib.mem, stale := true }
    flt := { hist := s.flt.hist, nextSeq := s.flt.nextSeq, recovCnt := s.flt.recovCnt }
    eng := { warm := true, gmem := s.eng.gmem, imgKept := s.eng.imgKept, fwBase := s.eng.fwBase, fwLen := s.eng.fwLen
             digest := s.eng.digest, testBase := s.eng.testBase, skipTest := s.eng.skipTest }
    dbg := s.dbg }
  .next z.fresh

/-- The sorted bits have been recomputed (R98): the fetch checks that waited go on. -/
def execCribStatRecomputeDone (s : State) : Out := act s s.crib.stale fun s => recheckAll { s with crib.stale := false }

/-- freeze_in (R427): every valid and ready output and every wake wire is 0, and the clocks stop; the events of this GCLK are recorded
(R388; DEDUCED, log 28). -/
def execFreeze (s : State) : Out :=
  act s true fun s =>
    let s := recordAll s
    withdrawAll { s with eng.state := .frozen, tal.wire := s.tal.wire.map fun (n, x) => (n, { x with firedAt := none }) }

end Sys2Proof.Machine
end

