-- ==== Sys2Proof/Machine/Control.lean ====
section
/-! DEFINITION. Control.lean: program control, carried out by the queue front end (R224, R342 to R351). -/
namespace Sys2Proof.Machine

/-- Does `f` to the front entry of queue q when it spells opcode `o` and `c` holds of it. -/
def onFront (s : State) (q : Nat) (o : Op) (c : Slot → Bool) (f : State → Slot → State) : Out :=
  match frontIs s q o with
  | some x => act s (c x) fun s => f s x
  | none => .next s

/-- Whether every entry before a position has retired, the last of them in an earlier GCLK (R344). -/
def fenceDone (s : State) (y : Queue) (pos : Nat) : Bool :=
  y.allRetiredBefore pos && (match y.headAt with | some g => decide (g < s.clk.gclk) | none => true)

/-- FENCE FULL (R238, R259, R344): every earlier instruction has retired; the granary lines of the queue become invalid. -/
def execFenceFull (q : Nat) (s : State) : Out :=
  onFront s q .fence (fun x => eFenceKind x.raw == 2 && fenceDone s (s.getQ q) x.pos) fun s x =>
    dispatchRetire (granInvalidateOwner s q) q x

/-- FENCE READS dispatches at the front (R344); it is unretired until FENCE_READS_RETIRE. -/
def execFenceReads (q : Nat) (s : State) : Out :=
  onFront s q .fence (fun x => eFenceKind x.raw == 1) fun s x =>
    let y := s.getQ q
    s.setQ q ((y.setSlot { x with st := .dispatched }).noteFront s.clk.gclk)

/-- An unretired READS fence retires once every earlier instruction has (R344, R345). -/
def execFenceReadsRetire (q pos : Nat) (s : State) : Out :=
  match (s.getQ q).slotAt pos with
  | some x =>
    act s (x.st == .dispatched && opOf x.raw == some .fence && fenceDone s (s.getQ q) pos) fun s => retire s q pos
  | none => .next s

/-- FENCE NONE (R344). -/
def execFenceNone (q : Nat) (s : State) : Out :=
  onFront s q .fence (fun x => eFenceKind x.raw == 0) fun s x => dispatchRetire s q x

/-- SIGNAL (R346): count arrivals of its kind, in one GCLK. -/
def execSignal (q : Nat) (s : State) : Out :=
  onFront s q .signal (fun _ => true) fun s x =>
    let k : Arr := if eSigKind x.raw = 0 then .normal else if eSigKind x.raw = 1 then .faulted else .abandoned
    dispatchRetire (arrive s (eSigTally x.raw) k (eSigCount x.raw)) q x

/-- The epoch test of R347. -/
def epochReached (fire epoch : Nat) : Bool := decide ((fire + 65536 - epoch % 65536) % 65536 < 32768)

/-- AWAIT (R347, R348): the test is of the fire count as the GCLK before left it. -/
def execAwait (q : Nat) (s : State) : Out :=
  onFront s q .await (fun x =>
      (match x.frontAt with | some g => decide (g < s.clk.gclk) | none => false)
      && epochReached (s.atStart.getT (eSigTally x.raw)).fire (eEpoch x.raw)) fun s x =>
    dispatchRetire s q x

/-- TICKWAIT in relative mode (R349): the ticks counted since it reached the front are enough. -/
def execTickwaitRelative (q : Nat) (s : State) : Out :=
  onFront s q .tickwait (fun x =>
      !eAligned x.raw && (eTicks x.raw == 0 || (decide (x.waited ≥ eTicks x.raw) && decide (s.tick.lastTick < s.clk.gclk)))) fun s x =>
    dispatchRetire s q x

/-- TICKWAIT in aligned mode (R349): the tick that releases it has been counted. -/
def execTickwaitAligned (q : Nat) (s : State) : Out :=
  onFront s q .tickwait (fun x => eAligned x.raw && x.go && decide (s.tick.lastTick < s.clk.gclk)) fun s x =>
    dispatchRetire s q x

/-- LINK (R278 to R280, R350): the fetcher takes its target, and it retires in the same GCLK. -/
def execLink (q : Nat) (s : State) : Out :=
  match (s.getQ q).win.find? fun x => x.st == .link with
  | some x =>
    act s ((s.getQ q).state == .enabled || (s.getQ q).state == .error) fun s =>
      let y := s.getQ q
      retire (s.setQ q { y with fetchAddr := if y.f = y.after x.pos 1 then eTarget x.raw else y.fetchAddr, linkRun := y.linkRun + 1
                                cache := if y.cached then y.cache.put (x.pos % y.size) x.raw else y.cache }) q x.pos
  | none => .next s

/-- NOP (R351). -/
def execNop (q : Nat) (s : State) : Out :=
  onFront s q .nop (fun _ => true) fun s x => dispatchRetire s q x

/-- A tick seen by a queue's front TICKWAIT (R349): one counted in the GCLK in which it came to the front does not count. -/
def tickFront (g tick : Nat) (y : Queue) : Queue :=
  match y.front with
  | some x =>
    if opOf x.raw == some .tickwait && x.st == .fetched && (match x.frontAt with | some a => decide (a < g) | none => false) then
      y.setSlot { x with waited := x.waited + 1
                         go := x.go || (eAligned x.raw && tick % eTicks x.raw == ePhase x.raw) }
    else y
  | none => y

end Sys2Proof.Machine
end

