-- ==== Sys2Proof/Machine/Ticks.lean ====
section
/-! DEFINITION. Ticks.lean: the tick and its sources (R28 to R32). -/
namespace Sys2Proof.Machine

/-- An armed tally counts the tick against its watchdog as it stood when the GCLK began; what reaches the tally in the tick's GCLK sets
the idle count to 0 at its end (R361). -/
def tickTally (wdog : Nat) (y : Tally) : Tally :=
  if y.armed && wdog != 0 && y.target != 0 then
    let n := satAdd 32 y.idle 1
    { y with idle := n, late := decide (n ≥ wdog) }
  else y

/-- An incomplete bin counts the tick (R215), unless a contribution has entered it in this GCLK. -/
def tickBin (b : Bin) : Bin := if b.count < b.pcnt ∧ !b.fed then { b with idle := b.idle + 1 } else b

/-- Whether a slot's instruction may still miss its deadline: it was not discarded or aborted whole (R275). A bay fault aborts some parts
of an instruction, and the others run on (R396). DEDUCED, log 10. -/
def mayMiss (s : State) (q : Nat) (x : Slot) : Bool :=
  let f := s.flightAt q x.pos
  (x.st == .checking || x.st == .fetched || x.st == .dispatched
    || (x.st == .aborted && (match f with | some f => f.parts.any (!·.cut) | none => false)))
  && !(match f with | some f => f.stage == .complete | none => false)

/-- The entries of queue q whose deadline a tick finds passed (R274, R275): they have not retired. -/
def lateOf (s : State) (q : Nat) : List Slot := (s.getQ q).win.filter fun x => mayMiss s q x && !x.missed && deadlinePassed s x

/-- The deadline misses that a tick causes. They are found at the end of its GCLK, in which an instruction that retires does not miss
(R274). DEDUCED, log 10. -/
def tickDeadlines (s : State) : State := each s s.qs.keys fun s q => each s (lateOf s q) fun s x => missDeadline s q x

/-- The tick source's settings act from this tick, as they stood when the GCLK began (R31). -/
def tickReload (g : Nat) (old t : Tick) : Tick :=
  { t with count := t.count + 1#64, actInternal := old.srcInternal, actPeriod := old.intPeriod, lastTick := g
           ext := t.ext && !old.srcInternal }

/-- An entry fetched or pushed in the GCLK of a tick counts its deadline from the new ENG_TICK (R274, DEDUCED, log 10). -/
def tickSlots (g tick : Nat) (y : Queue) : Queue := { y with win := y.win.map fun x => if x.at_ = g then { x with tick } else x }

/-- The deadline misses of a GCLK in which a tick was counted (R274, R275). -/
def deadlinePass (s : State) : State := if s.ticked then tickDeadlines s else s

/-- A tick is counted: every tick-counted mechanism advances (R32), the deadlines and the quiet period at the GCLK's end. -/
def tickNow (s : State) : State :=
  let s := { s with tick := tickReload s.clk.gclk s.start.tick s.tick
                    tal.tally := s.tal.tally.map fun (n, y) => (n, tickTally (s.start.tal.tally.getD {} n).wdog y)
                    lnk.bins := s.lnk.bins.map tickBin }
  { s with qs := s.qs.map fun (q, y) => (q, { tickFront s.clk.gclk s.tick.count.toNat (tickSlots s.clk.gclk s.tick.count.toNat y) with
      rtUsed := 0, rtOut := false }) }

/-- A tick is counted, whatever its source (R32). DESIGN CHOICE, log 13. -/
def execTick (s : State) : Out := act s true tickNow

/-- The consecutive legal edges counted with this one (R29). -/
def edgesWith (t : Tick) (g : Nat) : Nat :=
  match t.lastEdge with
  | some e => if g ≤ e + 700000 then t.edges + 1 else 1
  | none => 1

/-- A rising edge of tick_in (R28, R29): ignored less than 700 GCLK after the last counted one. Edges that came while src_internal was 1
count towards the four, and tick_in is in use from the next counted edge after the internal source has given up (DESIGN CHOICE, log 13). The
fourth edge is the one tick of its GCLK, whether the generator's came first or not. -/
def execTickInEdge (s : State) : Out :=
  act s (match s.tick.lastEdge with | some e => decide (s.clk.gclk ≥ e + 700) | none => true) fun s =>
    let n := edgesWith s.tick s.clk.gclk
    let s := { s with tick := { s.tick with edges := n, lastEdge := some s.clk.gclk } }
    if s.tick.ext then tickNow s
    else if !s.tick.actInternal && decide (n ≥ 4) then
      let s := { s with tick.ext := true }
      if s.ticked then s else tickNow s
    else s

/-- The internal generator counts a tick (R30): int_period GCLK after the tick before it, or after leaving reset. -/
def execInternalTick (s : State) : Out :=
  act s (!s.tick.ext && decide (s.clk.gclk ≥ s.tick.lastTick + s.tick.actPeriod)) tickNow

/-- tick_in is lost (R29): the internal generator takes over, counts a tick at once, and a note is recorded. -/
def execTickSourceLost (s : State) : Out :=
  act s (s.tick.ext && (match s.tick.lastEdge with | some e => decide (s.clk.gclk ≥ e + 1400000) | none => true)) fun s =>
    raise (tickNow { s with tick := { s.tick with ext := false, edges := 0 } }) { src := 0x12 }

/-- A write to ENG_TICK_CFG takes effect at the next tick (R31). -/
def execEngTickCfgWrite (port : Nat) (value : Word) (s : State) : Out :=
  wr (.engTickCfgWrite port value) s port 0x18 (fun _ => true) fun s =>
    { s with tick.srcInternal := value.getLsbD 30, tick.intPeriod := min 700000 (max 700 (bits value.toNat 0 20)) }

end Sys2Proof.Machine
end

