-- ==== Sys2Proof/Machine/Clock.lean ====
section
/-! DEFINITION. Clock.lean: what one GCLK cycle does when no command waits (DESIGN CHOICE, log 2). -/
namespace Sys2Proof.Machine

/-- Stream contexts held by the dispatched, unretired parts of queue q (R272). -/
def ctxHeld (s : State) (q : Nat) : Nat :=
  ((s.flights.filter fun f => f.rx.isNone && f.q == q).flatMap fun f =>
    f.parts.filter fun p => (match p.ctx with | some c => decide (c < 128) | none => false) && !p.gone).length

/-- One GCLK of real-time consumption (R272). -/
def rtPass (s : State) : State :=
  { s with qs := s.qs.map fun (q, y) => (q, if y.rtBudget = 0 then y else { y with rtUsed := y.rtUsed + ctxHeld s q }) }

/-- The factory instrument sets test_mode (R399, R429). -/
def factoryPass (s : State) : State :=
  match s.dbg.factory.find? fun x => x.1 == s.clk.gclk with
  | some (_, v) => { s with flt.testMode := v }
  | none => s

/-- One GCLK of a port: phy_up may fall (R167), a bay that is masked loses what it holds of its arbiter (R266), and a port in DOWN whose
conditions hold leaves it (R180, DEDUCED, log 11). -/
def portStep (s : State) (n : Nat) (p : Port) : Port :=
  let p := { p with phyUp := p.phyUp && !s.falls.contains (s.clk.gclk, n), arb := p.arb.filter fun x => bayAwake (s.getB x.1) }
  if mayHello s p then toHello s.clk.gclk p else p

/-- One GCLK of every port. -/
def portPass (s : State) : State := { s with lnk.port := s.lnk.port.map fun (n, p) => (n, portStep s n p) }

/-- The emergency requesters release the arbiters at the end of the GCLK (R248, R264): the granger, when the debug access path has won over
it, a GCLK later. DESIGN CHOICE, log 35. -/
def releasePass (s : State) : State :=
  { s with bay := s.bay.map fun (b, y) => (b, { y with emerg := y.emerg && s.dbg.busy }), dbg.busy := false }

/-- What the block notes for the length of one GCLK is over (R127, R215, R310, R456). -/
def notesOver (s : State) : State :=
  { s with clk := { gclk := s.clk.gclk + 1 }, lnk.bins := s.lnk.bins.map fun b => { b with fed := false }
           qs := s.qs.map fun (q, y) => (q, { y with elemNow := 0, clipNow := 0 }) }

/-- Every RC counter ends the GCLK saturated at its all-ones value (R20). -/
def satPass (s : State) : State :=
  { s with
    eng.collide := sat 32 s.eng.collide, flt.recovCnt := sat 32 s.flt.recovCnt, sig.stray := sat 32 s.sig.stray
    tal.stray := sat 32 s.tal.stray, crib.dropCnt := sat 32 s.crib.dropCnt, gran.hitCnt := sat 64 s.gran.hitCnt
    gran.missCnt := sat 64 s.gran.missCnt, dbg.dapCnt := sat 16 s.dbg.dapCnt
    hst := s.hst.map fun (c, h) => (c, { h with errCnt := sat 16 h.errCnt })
    qs := s.qs.map fun (q, y) => (q, { y with refusedCnt := sat 8 y.refusedCnt })
    lnk.port := s.lnk.port.map fun (n, p) => (n, { p with crcCnt := sat 32 p.crcCnt, replayCnt := sat 32 p.replayCnt })
    bay := s.bay.map fun (b, y) => (b, { y with rdCnt := sat 64 y.rdCnt, wrCnt := sat 64 y.wrCnt, missCnt := sat 32 y.missCnt
                                                wakeCnt := sat 16 y.wakeCnt }) }

/-- One GCLK cycle: the arbiters decide their rounds on what this cycle has brought, and the clock, real-time consumption, the
level-sensed sources and the ports that leave DOWN advance; the next cycle starts from there (R455). -/
def gclkPass (s : State) : State :=
  if s.runs then
    let s := notesOver (satPass (factoryPass (fltPass (talPass (mcStallPass (releasePass (issuePass (deadlinePass s))))))))
    (sigPass (imagePass (heldLoad (frontPass (portPass (rtPass s)))))).fresh
  else s

end Sys2Proof.Machine
end

