-- ==== Sys2Proof/Machine/Power.lean ====
section
/-! DEFINITION. Power.lean: the power states of the bays (R444 to R448). -/
namespace Sys2Proof.Machine

/-- Wake latency of a state in ns (Table 13.5). -/
def latencyNs (p : Pwr) : Nat := match p with | .active => 0 | .idle => 40 | .nap => 4000 | .dormant => 120000

/-- Whether a state is allowed by ENG_LAT_TOL (R444). -/
def allowed (s : State) (p : Pwr) : Bool := decide (latencyNs p ≤ s.eng.latTol.toNat)

/-- A bay that is in a state, settled, with no part placed on it. DEDUCED, log 25. -/
def resting (s : State) (b : Nat) (p : Pwr) : Bool :=
  let y := s.getB b
  s.hasBay b && y.pwr == p && y.waking.isNone && !y.faulted && y.waits.isEmpty

/-- A bay enters a state. -/
def enterPwr (s : State) (b : Nat) (p : Pwr) : State := s.modB b fun y => { y with pwr := p, since := s.clk.gclk }

/-- An Active bay that has held no context, loft or lock for 32 GCLK enters Idle (R444). -/
def execBayIdleEntry (bay : Nat) (s : State) : Out :=
  let y := s.getB bay
  act s (resting s bay .active && allowed s .idle && y.ctxs.isEmpty && y.loft == 0 && !s.locks.any (·.bay == bay)
      && decide (s.clk.gclk ≥ y.since + 32)) fun s => enterPwr s bay .idle

/-- A bay in Idle for 2,800 GCLK enters Nap (R444). -/
def execBayNapEntry (bay : Nat) (s : State) : Out :=
  act s (resting s bay .idle && allowed s .nap && decide (s.clk.gclk ≥ (s.getB bay).since + 2800)) fun s => enterPwr s bay .nap

/-- A bay in Nap for 84,000 GCLK that holds no bin slice enters Dormant (R444). -/
def execBayDormantEntry (bay : Nat) (s : State) : Out :=
  act s (resting s bay .nap && allowed s .dormant && decide (s.clk.gclk ≥ (s.getB bay).since + 84000)
      && !s.lnk.bins.any fun b => b.slices.contains bay) fun s => enterPwr s bay .dormant

/-- A sleeping bay wakes when a part has been placed on it or its state is no longer allowed (R445). That a part placed on a bay in Nap
or Dormant wakes it too is R445's word; the example after R448 has such a part wait for R446 (DEDUCED, log 25). -/
def execBayWake (bay : Nat) (s : State) : Out :=
  let y := s.getB bay
  act s (s.hasBay bay && y.pwr != .active && y.waking.isNone && (!y.waits.isEmpty || !allowed s y.pwr)) fun s =>
    wakeBay s bay

/-- Applies the invalidations that reached a bay while it slept (R447). -/
def applyDeferred (y : Bay) : Bay :=
  { y with mapc := y.mapc.filter fun e => !y.defer.any fun r => e.hit r, defer := [] }

/-- A wake ends: the bay is Active, its deferred invalidations applied (R445, R447); after Dormant its loft reads zero (Table 13.5). -/
def execBayWakeDone (bay : Nat) (s : State) : Out :=
  act s (match (s.getB bay).waking with | some t => decide (s.clk.gclk ≥ t) | none => false) fun s =>
    pumpAll (s.modB bay fun y => { applyDeferred y with
      pwr := .active, waking := none, since := s.clk.gclk, loftClear := y.loftClear || y.pwr == .dormant })

/-- A part that has waited 64 GCLK, its bay having no context or no loft for the head of its wait order (R228); a further bay wakes 64
GCLK after the last. DEDUCED, log 25. -/
def longWaiting (s : State) : Option (Nat × Nat) :=
  if (match s.eng.lastWake with | some g => decide (s.clk.gclk < g + 64) | none => false) then none
  else
    ((s.bay.keys.filter fun b => !headFits s b).flatMap fun b => (s.getB b).waits).find? fun (id, i) =>
      match s.flightOf id with
      | some f => (match f.parts[i]? with | some p => p.ctx.isNone && decide (s.clk.gclk ≥ p.since + 64) | none => false)
      | none => false

/-- A part that has waited 64 GCLK wakes a bay, and one more for every further 64 GCLK (R446). -/
def execBayWakeForWaitingPart (bay : Nat) (s : State) : Out :=
  match longWaiting s with
  | none => .next s
  | some _ => act s (nextSleeper s == some bay) fun s => { wakeBay s bay with eng.lastWake := some s.clk.gclk }

/-- A write to ENG_LAT_TOL wakes the bays whose state it no longer allows (R445). -/
def execEngLatTolWrite (port : Nat) (value : Word) (s : State) : Out :=
  wr (.engLatTolWrite port value) s port 0x1C (fun _ => true) fun s =>
    let s := { s with eng.latTol := value }
    each s (s.bay.keys.filter fun b => !allowed s (s.getB b).pwr) wakeBay

end Sys2Proof.Machine
end

