-- ==== Sys2Proof/Machine/Tallies.lean ====
section
/-! DEFINITION. Tallies.lean: tallies and host channels (R352 to R366). -/
namespace Sys2Proof.Machine

/-- Offset of a host channel's register. -/
def hReg (c off : Nat) : Nat := 0x28000 + 32 * c + off

/-- A write to TAL_ARRIVE (R352, R353). -/
def execTallyArrive (port t : Nat) (kind : BitVec 2) (count : BitVec 16) (s : State) : Out :=
  wr (.tallyArrive port t kind count) s port (tReg t 0x14) (fun _ => count != 0#16) fun s =>
    match arrOf kind with
    | some k => arrive s t k count.toNat
    | none => s

/-- A write of TAL_FORCE with an op (R363): it acts at the end of its GCLK, on the tally as it is bound there (R353). -/
def talForce (i : Instr) (port t op value : Nat) (s : State) : Out :=
  wr i s port (tReg t 0x18) (fun _ => true) fun s => talNote s t fun x => { x with force := x.force ++ [(op, value)] }

/-- TAL_FORCE op release (R363). -/
def execTallyRelease (port t : Nat) (s : State) : Out := talForce (.tallyRelease port t) port t 1 0 s

/-- TAL_FORCE op load (R361, R363). -/
def execTallyLoad (port t : Nat) (value : BitVec 20) (s : State) : Out := talForce (.tallyLoad port t value) port t 2 value.toNat s

/-- TAL_FORCE op plain fire (R363). -/
def execTallyPlainFire (port t : Nat) (s : State) : Out := talForce (.tallyPlainFire port t) port t 3 0 s

/-- The RW fields of TAL_CFG: sig_en needs a tally source (128 to 511). -/
def setTalCfg (y : Tally) (v : Nat) : Tally :=
  { y with sigEn := bitAt v 16 && decide (bits v 0 9 ≥ 128), sigSrc := bits v 0 9 }

/-- A write to TAL_CFG with wd_arm = 1 (R361). -/
def execWatchdogArm (port t : Nat) (value : Word) (s : State) : Out :=
  wr (.watchdogArm port t value) s port (tReg t 0xC) (fun _ => value.getLsbD 31) fun s =>
    talNote (s.setT t (setTalCfg (s.getT t) value.toNat)) t fun x => { x with arm := true }

/-- A W1C write to TAL_FAULT.fault (R354). -/
def execTalFaultClear (port t : Nat) (s : State) : Out :=
  wr (.talFaultClear port t) s port (tReg t 0x10) (fun _ => true) fun s => talNote s t fun x => { x with clear := true }

/-- An armed tally's idle count has reached its watchdog, as the last tick found (R361, R362): it releases at the end of the GCLK, unless
something has reached it there (R353). -/
def execTallyWatchdogExpiry (t : Nat) (s : State) : Out :=
  let y := s.getT t
  act s (y.target != 0 && y.armed && y.late && y.idle != 0) fun s => talNote s t fun x => { x with expire := true }

/-- A write to HST_DOORBELL (R40, R364). -/
def execHstDoorbell (port c : Nat) (kind : BitVec 2) (count : BitVec 16) (s : State) : Out :=
  wr (.hstDoorbell port c kind count) s port (hReg c 0x10) (fun s => s.cfg.hostSignal) fun s =>
    let h := s.getH c
    if !h.valid then addStray s count.toNat
    else
      match arrOf kind with
      | some k => if count = 0#16 then s else arrive s h.tally k count.toNat
      | none => s

/-- The bytes of a notification (R365). -/
def notifyBytes (fire tally : Nat) (cookie : Word) : List Byte := leBytes fire 2 ++ leBytes tally 2 ++ leBytes cookie.toNat 4

/-- A pending channel with nothing outstanding issues its notification, in the GCLK after the firing, or after the answer to the one
before (R365, R377). -/
def execHostNotify (c : Nat) (s : State) : Out :=
  let h := s.getH c
  feAct s (h.pending && h.wr.isNone && (s.start.hst.getD {} c).wr.isNone && !s.held) (.host c) true (h.addr.toNat / 8 * 8) 8 fun s =>
    s.setH c { h with pending := false
                      wr := some { addr := h.addr.toNat / 8 * 8, due := s.feBy
                                   data := notifyBytes (s.getT h.tally).fire h.tally h.cookie } }

/-- A notification is answered, or fails (R366). -/
def execHostNotifyResponse (c : Nat) (timeout : Bool) (sts : BitVec 2) (s : State) : Out :=
  let h := s.getH c
  match h.wr with
  | none => .next s
  | some w =>
    act s (!timeout || s.feLate w.due) fun s =>
      let s := feDone s (.host c)
      if timeout || sts != 0#2 then
        pulse (raise (s.setH c { h with wr := none, errCnt := h.errCnt + 1 }) { src := 8, unit := c, detail := w.addr }) 7
      else s.setH c { h with wr := none }

end Sys2Proof.Machine
end

