-- ==== Sys2Proof/Machine/Regs.lean ====
section
/-!
DEFINITION. Regs.lean: the control-space map (14): the register at each offset, the value it reads, what reading it clears
(R16, R18, R453 to R460).
-/
namespace Sys2Proof.Machine

/-- A register as it stands: whether it is 64 bits wide, and its value. -/
structure Reg where
  wide : Bool
  val : Nat
  deriving DecidableEq, Repr

/-- A 32-bit register's value, and a 64-bit one's. -/
def r32 (v : Nat) : Option Reg := some { wide := false, val := v }
def r64 (v : Nat) : Option Reg := some { wide := true, val := v }

/-- The unit number and the offset inside its block, of an offset in an indexed block (R454). -/
def blockOf (off base stride n : Nat) : Option (Nat × Nat) :=
  if base ≤ off ∧ off < base + stride * n then some ((off - base) / stride, (off - base) % stride) else none

/-- The number of an engine state (Table 13.1). -/
def engStateNum (x : EngState) : Nat :=
  match x with | .cold => 0 | .load => 1 | .test => 2 | .service => 3 | .safe => 4 | .frozen => 5

/-- ENG_CFG (R37, R38). -/
def engCfg (c : Config) : Nat :=
  c.bays + c.linkPorts * 2 ^ 8 + c.stackPorts * 2 ^ 16 + c.wakeWires / 64 * 2 ^ 20 + b2n (!c.grantHold) * 2 ^ 30 + b2n c.hostSignal * 2 ^ 31

/-- Engine globals and the admin queue (Table 14.3). -/
def engReg (s : State) (off : Nat) : Option Reg :=
  let e := s.eng
  match off with
  | 0x0 => r32 0xB7040100
  | 0x4 => r32 (engCfg s.cfg)
  | 0x8 => r32 (b2n e.skipTest)
  | 0xC => r32 (engStateNum e.state + e.cause * 2 ^ 8 + b2n e.imgKept * 2 ^ 16 + b2n e.warm * 2 ^ 17)
  | 0x10 => r64 s.tick.count.toNat
  | 0x18 => r32 (s.tick.intPeriod + b2n s.tick.srcInternal * 2 ^ 30 + b2n s.tick.ext * 2 ^ 31)
  | 0x1C => r32 e.latTol.toNat
  | 0x20 => r64 e.fwBase.toNat
  | 0x28 => r32 e.fwLen.toNat
  | 0x2C => r32 0
  | 0x30 => r64 e.testBase.toNat
  | 0x38 => r64 e.testBays.toNat
  | 0xF0 => r32 (sat 32 e.collide)
  | 0xF4 => r32 e.fetchTimeout.toNat
  | 0x200 => r64 s.adm.ringBase.toNat
  | 0x208 => r32 s.adm.ringLog2
  | 0x20C => r32 0
  | 0x210 => r64 s.adm.idxBase.toNat
  | 0x218 => r64 s.adm.cplBase.toNat
  | 0x220 => r32 s.adm.cplLog2
  | _ => match blockOf off 0x40 4 12 with | some (n, 0) => r32 (e.digest.getD 0#32 n).toNat | _ => none

/-- The fault registers (Table 14.4). -/
def fltReg (s : State) (off : Nat) : Option Reg :=
  let f := s.flt
  match off with
  | 0x10000 =>
    r32 (f.quiet % 2 ^ 16 + b2n (f.unack.getD false 1) * 2 ^ 21 + b2n (f.unack.getD false 2) * 2 ^ 22 + b2n (f.unack.getD false 3) * 2 ^ 23
      + b2n f.testMode * 2 ^ 28 + b2n f.safe * 2 ^ 29 + f.level * 2 ^ 30)
  | 0x10004 => r32 0
  | 0x10008 => r32 (f.nextSeq % 32 + f.nextSeq * 2 ^ 8)
  | 0x1000C => r32 f.quietCfg.toNat
  | 0x10010 => r32 (sat 32 f.recovCnt)
  | 0x10014 => r32 0
  | _ =>
    match blockOf off 0x10100 4 64, blockOf off 0x10800 32 32 with
    | some (n, 0), _ => r32 (fltCfg f n).toNat
    | _, some (n, o) => if o % 8 = 0 then r64 (bits (f.hist.getD 0#256 n).toNat (8 * o) 64) else none
    | _, _ => none

/-- Signal globals and host channels (Table 14.5). -/
def sigReg (s : State) (off : Nat) : Option Reg :=
  match off with
  | 0x20000 => r32 (b2n s.sig.enable)
  | 0x20004 => r32 0
  | 0x20008 => r32 (sat 32 s.sig.stray)
  | _ =>
    match blockOf off 0x28000 32 64 with
    | some (c, o) =>
      let h := s.getH c
      if !s.cfg.hostSignal then none
      else
        match o with
        | 0x0 => r32 (h.tally + b2n h.valid * 2 ^ 31)
        | 0x4 => r32 h.cookie.toNat
        | 0x8 => r64 h.addr.toNat
        | 0x10 => r32 0
        | 0x14 => r32 (sat 16 h.errCnt + b2n h.wr.isSome * 2 ^ 30 + b2n h.pending * 2 ^ 31)
        | _ => none
    | none => none

/-- Signal sources (Table 14.5). -/
def srcReg (s : State) (off : Nat) : Option Reg :=
  match blockOf off 0x100000 16 33280 with
  | some (n, o) =>
    let x := s.getS n
    match o with
    | 0x0 => r32 x.cfg.toNat
    | 0x4 => r32 (b2n x.pending + b2n x.active * 2 + b2n (srcInput s n) * 4)
    | 0x8 => r64 x.vec.toNat
    | _ => none
  | none => none

/-- A wake binding's register. -/
def wakeReg (w : Wake) : Nat := w.wire + b2n w.valid * 2 ^ 15

/-- Tallies (Table 14.6). -/
def talReg (s : State) (off : Nat) : Option Reg :=
  match blockOf off 0x200000 32 16384, blockOf off 0x280000 16 16384 with
  | some (t, o), _ =>
    let y := s.getT t
    match o with
    | 0x0 => r64 (y.count + y.fire * 2 ^ 32 + b2n y.fault * 2 ^ 63)
    | 0x8 => r32 y.target
    | 0xC => r32 (y.sigSrc + b2n y.sigEn * 2 ^ 16 + b2n y.armed * 2 ^ 31)
    | 0x10 => r32 (b2n y.fault + y.abandon * 2 ^ 4 + y.epoch * 2 ^ 16)
    | 0x14 => r32 0
    | 0x18 => r32 0
    | 0x1C => r32 y.wdog
    | _ => none
  | none, some (t, o) =>
    let y := s.getT t
    match o with
    | 0x0 => r32 (wakeReg y.wake0)
    | 0x4 => r32 (wakeReg y.wake1)
    | 0x8 => r32 (wakeReg y.wake2)
    | 0xC => r32 (wakeReg y.wake3)
    | _ => none
  | none, none => if off = 0x2F0000 then r32 (sat 32 s.tal.stray) else none

/-- Queue registers (Table 14.7); queue 0's report the admin queue (R314). -/
def queueReg (s : State) (off : Nat) : Option Reg :=
  match blockOf off 0x400000 64 65536 with
  | none => none
  | some (0, o) =>
    let a := s.adm
    match o with
    | 0x0 => r32 0
    | 0x4 => r32 (qStateNum a.state + b2n (a.strikePend && a.idxRead.isSome) * 2 ^ 15 + b2n a.paused * 2 ^ 16)
    | 0x8 => r32 a.errIndex
    | 0xC => r32 a.errCause
    | 0x10 => r32 a.h
    | 0x14 => r32 0
    | 0x18 => r32 a.p
    | 0x1C => r32 0
    | 0x20 => r64 0
    | 0x28 => r64 0
    | 0x30 => r64 0
    | 0x38 => r64 0
    | _ => none
  | some (q, o) =>
    let y := s.getQ q
    match o with
    | 0x0 => r32 0
    | 0x4 =>
      r32 (qStateNum y.state + b2n (y.strikePend && y.idxRead.isSome) * 2 ^ 15 + b2n y.cached * 2 ^ 17 + b2n y.refused * 2 ^ 18 + y.inflight * 2 ^ 19
        + sat 8 y.refusedCnt * 2 ^ 24)
    | 0x8 => r32 y.errIndex
    | 0xC => r32 (y.errCause + y.errOff * 2 ^ 8)
    | 0x10 => r32 y.h
    | 0x14 => r32 0
    | 0x18 => r32 y.p
    | 0x1C => r32 (y.owner + y.k * 2 ^ 16)
    | 0x20 => r64 y.elemCnt
    | 0x28 => r64 y.clipCnt
    | 0x30 => r64 (y.cls + b2n (rtIn y) * 2 ^ 8 + y.rtBudget * 2 ^ 32)
    | 0x38 => r64 y.ringBase
    | _ => none

/-- The number of a port state (R179). -/
def portStateNum (x : PortState) : Nat := match x with | .down => 0 | .hello => 1 | .up => 2 | .fenced => 3

/-- Link ports and link globals (Table 14.8); an absent port's block holds nothing (R3). -/
def linkReg (s : State) (off : Nat) : Option Reg :=
  match off with
  | 0x9F0000 => r32 s.lnk.self.toNat
  | 0x9F0004 => r32 s.lnk.timeout.toNat
  | 0x9F0008 => r32 s.lnk.mcStall.toNat
  | 0x9F000C => r32 (s.lnk.binLimit + slicesInUse s * 2 ^ 8 + s.lnk.binIdle.toNat * 2 ^ 16)
  | _ =>
    match blockOf off 0x800000 0x1000 s.cfg.linkPorts with
    | none => none
    | some (n, o) =>
      let p := s.getP n
      match o with
      | 0x0 =>
        r32 (portStateNum p.state + b2n p.phyUp * 2 ^ 4 + b2n (!p.resend.isEmpty) * 2 ^ 5 + p.fenceCause * 2 ^ 6 + p.incarn * 2 ^ 8)
      | 0x4 => r32 (b2n p.enable + p.rxClass * 2 ^ 4)
      | 0x8 =>
        r64 (p.peerId + p.peerPort * 2 ^ 16 + p.peerKind * 2 ^ 24 + b2n p.peerValid * 2 ^ 31 + p.peerIncarn * 2 ^ 32)
      | 0x10 => r32 (p.credit 0 % 256 + p.credit 1 % 256 * 2 ^ 8 + p.credit 2 % 256 * 2 ^ 16 + p.credit 3 % 256 * 2 ^ 24)
      | 0x14 => r32 (sat 32 p.crcCnt)
      | 0x18 => r32 (sat 32 p.replayCnt)
      | _ => none

/-- The number of a power state (Table 13.5). -/
def pwrNum (p : Pwr) : Nat := match p with | .active => 0 | .idle => 1 | .nap => 2 | .dormant => 3

/-- Bay counters (Table 14.9). -/
def bayReg (s : State) (off : Nat) : Option Reg :=
  match blockOf off 0xA00000 0x1000 s.cfg.bays with
  | none => none
  | some (b, o) =>
    let y := s.getB b
    match o with
    | 0x0 => r64 (sat 64 y.rdCnt)
    | 0x8 => r64 (sat 64 y.wrCnt)
    | 0x10 => r32 (sat 32 y.missCnt)
    | 0x14 => r32 (y.ctxs.length + (trkHeld s b).length * 2 ^ 16)
    | 0x18 => r32 (pwrNum y.pwr + b2n y.waking.isSome * 4 + sat 16 y.wakeCnt * 2 ^ 16)
    | _ => none

/-- CRIB_STAT of a slot (R98, R100, R101). -/
def cribStat (s : State) (n : Nat) : Nat :=
  b2n (cribSorted s n 4) + b2n (cribSorted s n 8) * 2 + b2n (cribSorted s n 16) * 4 + b2n (cribSorted s n 256) * 8
  + b2n (s.crib.loading == some n) * 2 ^ 15 + min (cribInflight s n) 0xFFFF * 2 ^ 16

/-- Crib status, granary, stack decode and debug (Table 14.10). -/
def tailReg (s : State) (off : Nat) : Option Reg :=
  match off with
  | 0xCC0000 => r32 (sat 32 s.crib.dropCnt)
  | 0xE00000 => r32 0
  | 0xE00008 => r64 (sat 64 s.gran.hitCnt)
  | 0xE00010 => r64 (sat 64 s.gran.missCnt)
  | 0xE00020 => r64 s.gran.stkBase.toNat
  | 0xE00028 => r64 s.gran.stkSize.toNat
  | 0xE00030 => r32 s.gran.stkIlv
  | 0xF00000 => r32 (b2n s.dbg.busy + sat 16 s.dbg.dapCnt * 2 ^ 16)
  | _ => match blockOf off 0xC80000 4 1024 with | some (n, 0) => r32 (cribStat s n) | _ => none

/-- The register at an offset (R453). -/
def regAt (s : State) (off : Nat) : Option Reg :=
  if off < 0x10000 then engReg s off
  else if off < 0x20000 then fltReg s off
  else if off < 0x100000 then sigReg s off
  else if off < 0x200000 then srcReg s off
  else if off < 0x400000 then talReg s off
  else if off < 0x800000 then queueReg s off
  else if off < 0xA00000 then linkReg s off
  else if off < 0xC00000 then bayReg s off
  else tailReg s off

/-- An RC counter after a read has cleared it: what this GCLK has added to it (R18, R456). -/
def rcLeft (start now : Nat) : Nat := now - start

/-- The state with the RC fields of the register at an offset cleared (R16, R18); none where it has no RC field. -/
def rcClear (s : State) (off : Nat) : Option State :=
  let o := s.atStart
  if off = 0xF0 then some { s with eng.collide := rcLeft o.eng.collide s.eng.collide }
  else if off = 0x10010 then some { s with flt.recovCnt := rcLeft o.flt.recovCnt s.flt.recovCnt }
  else if off = 0x20008 then some { s with sig.stray := rcLeft o.sig.stray s.sig.stray }
  else if off = 0x2F0000 then some { s with tal.stray := rcLeft o.tal.stray s.tal.stray }
  else if off = 0xCC0000 then some { s with crib.dropCnt := rcLeft o.crib.dropCnt s.crib.dropCnt }
  else if off = 0xE00008 then some { s with gran.hitCnt := rcLeft o.gran.hitCnt s.gran.hitCnt }
  else if off = 0xE00010 then some { s with gran.missCnt := rcLeft o.gran.missCnt s.gran.missCnt }
  else if off = 0xF00000 then some { s with dbg.dapCnt := rcLeft o.dbg.dapCnt s.dbg.dapCnt }
  else
    match blockOf off 0x28000 32 64, blockOf off 0x400000 64 65536, blockOf off 0x800000 0x1000 s.cfg.linkPorts,
      blockOf off 0xA00000 0x1000 s.cfg.bays with
    | some (c, 0x14), _, _, _ =>
      if s.cfg.hostSignal then some (s.setH c { s.getH c with errCnt := rcLeft (o.getH c).errCnt (s.getH c).errCnt }) else none
    | _, some (q, 0x4), _, _ =>
      if q = 0 then none else some (s.modQ q fun y => { y with refusedCnt := rcLeft (o.getQ q).refusedCnt y.refusedCnt })
    | _, _, some (n, 0x14), _ => some (s.modP n fun p => { p with crcCnt := rcLeft (o.getP n).crcCnt p.crcCnt })
    | _, _, some (n, 0x18), _ => some (s.modP n fun p => { p with replayCnt := rcLeft (o.getP n).replayCnt p.replayCnt })
    | _, _, _, some (b, 0x0) => some (s.modB b fun y => { y with rdCnt := rcLeft (o.getB b).rdCnt y.rdCnt })
    | _, _, _, some (b, 0x8) => some (s.modB b fun y => { y with wrCnt := rcLeft (o.getB b).wrCnt y.wrCnt })
    | _, _, _, some (b, 0x10) => some (s.modB b fun y => { y with missCnt := rcLeft (o.getB b).missCnt y.missCnt })
    | _, _, _, some (b, 0x18) => some (s.modB b fun y => { y with wakeCnt := rcLeft (o.getB b).wakeCnt y.wakeCnt })
    | _, _, _, _ => none

/-- A read of a register whose RC fields may be cleared: the first clearing read of a GCLK clears them, and the field ends the cycle
holding that cycle's increments (R18, R456). -/
def rcTake (s : State) (off : Nat) (clear : Bool) : State :=
  match rcClear s off with
  | some t => if clear && !s.clk.seen.contains off then { t with clk.seen := off :: s.clk.seen } else s
  | none => s

/-! ### Reads (R9 to R12, R18, R19, R128, R455 to R458) -/

/-- Whether an offset lies in the crib's array (R8, R98), and the bytes there. -/
def inCrib (off : Nat) : Bool := decide (0xC00000 ≤ off) && decide (off < 0xC80000)
def cribRead (s : State) (off size : Nat) : Nat := leNat (s.crib.mem.readN (off - 0xC00000) size)

/-- The queue whose Q_ELEM_CNT or Q_CLIP_CNT lies at an offset. -/
def elemQueue (off : Nat) : Option Nat := match blockOf off 0x400000 64 65536 with | some (q, 0x20) => some q | _ => none
def clipQueue (off : Nat) : Option Nat := match blockOf off 0x400000 64 65536 with | some (q, 0x28) => some q | _ => none

/-- A 64-bit register's value as a mesh port reads it, with the capture of R128: reading Q_ELEM_CNT captures Q_CLIP_CNT, and
reading Q_CLIP_CNT takes the capture. An RC register is cleared unless the read is a debug read. -/
def readWide (s : State) (port off val : Nat) (clear : Bool) : Nat × State :=
  let s' := rcTake s off clear
  match elemQueue off, clipQueue off with
  | some q, _ => (val, { s' with cs.clip := s.cs.clip.put port (some (q, BitVec.ofNat 64 (s.view.getQ q).clipCnt)) })
  | none, some q =>
    match s.cs.clip.getD none port with
    | some (k, v) => if k = q then (v.toNat, { s' with cs.clip := s.cs.clip.put port none }) else (val, s')
    | none => (val, s')
  | none, none => (val, s')

/-- A 32-bit read (R9, R10, R12, R457). -/
def read32 (s : State) (port off : Nat) (clear : Bool) : Nat × State :=
  if inCrib off then (cribRead s.view off 4, s)
  else
    match regAt s.view off with
    | some r =>
      if r.wide then
        let (v, s) := readWide s port off r.val clear
        (v % 2 ^ 32, { s with cs.hi := s.cs.hi.put port (some (off, BitVec.ofNat 32 (v / 2 ^ 32))) })
      else (r.val, rcTake s off clear)
    | none =>
      match if off % 8 = 4 then regAt s.view (off - 4) else none with
      | some r =>
        if r.wide then
          match s.cs.hi.getD none port with
          | some (o, h) => if o = off - 4 then (h.toNat, { s with cs.hi := s.cs.hi.put port none }) else (r.val / 2 ^ 32, s)
          | none => (r.val / 2 ^ 32, s)
        else (0, s)
      | none => (0, s)

/-- A control-space read of 4 or 8 bytes: its value, and what it leaves (R9). -/
def csRead (s : State) (port off size : Nat) (clear : Bool) : Nat × State :=
  if size = 4 ∧ off % 4 = 0 then read32 s port off clear
  else if size = 8 ∧ off % 8 = 0 then
    if inCrib off then (cribRead s.view off 8, s)
    else
      match regAt s.view off with
      | some r =>
        if r.wide then readWide s port off r.val clear
        else
          let (h, s2) := read32 s port (off + 4) clear
          (r.val % 2 ^ 32 + h % 2 ^ 32 * 2 ^ 32, rcTake s2 off clear)
      | none =>
        let (h, s2) := read32 s port (off + 4) clear
        (h % 2 ^ 32 * 2 ^ 32, s2)
  else (0, s)

/-- A read by a mesh port, or by the debug access path, whose reads clear nothing (R19): its data go to cr_data. -/
def portRead (s : State) (port off size : Nat) : State :=
  let (v, t) := csRead s port off size (decide (port < s.cfg.bays))
  answered t port (BitVec.ofNat 64 v)

/-! ### Writes to registers without a row of their own (R13, R16) -/

/-- The admin queue's base registers and ADM_CPL_LOG2 take a write (R312): ADM_RING_LOG2 is 0, and no command is in progress. -/
def admBasesOpen (s : State) : Bool := s.adm.ringLog2 == 0 && s.adm.cmd.isNone

/-- Sets a 64-bit register whole (R11). Queue counters, STK_BASE and STK_SIZE have their own rows. -/
def put64 (s : State) (off : Nat) (v : DWord) : State :=
  let adm := admBasesOpen s
  let align (n : Nat) : DWord := BitVec.ofNat 64 (v.toNat / n * n)
  match off with
  | 0x20 => if mayLoad s then { s with eng.fwBase := v } else s
  | 0x30 => if mayLoad s then { s with eng.testBase := v } else s
  | 0x200 => if adm then { s with adm.ringBase := align 64 } else s
  | 0x210 => if adm then { s with adm.idxBase := align 64 } else s
  | 0x218 => if adm then { s with adm.cplBase := align 64 } else s
  | _ =>
    match blockOf off 0x28000 32 64, blockOf off 0x100000 16 33280, blockOf off 0x400000 64 65536 with
    | some (c, 0x8), _, _ => if s.cfg.hostSignal then s.setH c { s.getH c with addr := align 8 } else s
    | _, some (n, 0x8), _ => s.setS n { s.getS n with vec := v &&& 0x0000FFFFFFFFFFFC#64 }
    | _, _, some (q, 0x30) =>
      if q = 0 ∨ (s.getQ q).state = .absent then s else s.modQ q fun y => { y with cls := bits v.toNat 0 3 }
    | _, _, _ => s

/-- Sets a 32-bit register that has no row of its own. -/
def put32 (s : State) (off : Nat) (v : Word) : State :=
  let n := v.toNat
  let us : BitVec 16 := BitVec.ofNat 16 (max 1 (n % 65536))
  match off with
  | 0x8 => { s with eng.skipTest := v.getLsbD 0 }
  | 0x28 => if mayLoad s then { s with eng.fwLen := BitVec.ofNat 21 n } else s
  | 0xF4 => { s with eng.fetchTimeout := us }
  | 0x220 =>
    if admBasesOpen s then
      let k := if 4 ≤ n % 16 ∧ n % 16 ≤ 12 then n % 16 else 4
      { s with adm.cplLog2 := k, adm.paused := s.adm.cplProd == s.adm.cplCons ^^^ 2 ^ k }
    else s
  | 0x1000C => fltWrite s off v
  | 0x9F0000 =>
    if s.lnk.port.all fun (_, p) => p.state == .down then { s with lnk.self := BitVec.ofNat 16 n } else s
  | 0x9F0004 => { s with lnk.timeout := us }
  | 0x9F0008 => { s with lnk.mcStall := us }
  | 0x9F000C => { s with lnk.binLimit := n % 256, lnk.binIdle := BitVec.ofNat 16 (n / 65536) }
  | _ =>
    match blockOf off 0x40 4 12, blockOf off 0x28000 32 64, blockOf off 0x100000 16 33280, blockOf off 0x200000 32 16384 with
    | some (k, 0), _, _, _ => if mayLoad s then { s with eng.digest := s.eng.digest.put k v } else s
    | _, some (c, 0x0), _, _ =>
      if s.cfg.hostSignal then s.setH c { s.getH c with valid := v.getLsbD 31, tally := n % 16384 } else s
    | _, some (c, 0x4), _, _ => if s.cfg.hostSignal then s.setH c { s.getH c with cookie := v } else s
    | _, _, some (k, 0x0), _ => setSrcCfg s k v
    | _, _, _, some (t, 0xC) => s.setT t (setTalCfg (s.getT t) n)
    | _, _, _, some (t, 0x1C) => s.setT t { s.getT t with wdog := n }
    | _, _, _, _ => s

end Sys2Proof.Machine
end

