-- ==== Sys2Proof/Machine/Space.lean ====
section
/-!
DEFINITION. Space.lean: writes to the control space (R8 to R11, R102, R127, R259, R415, R455 to R458), and the reads that
capture or clear.
-/
namespace Sys2Proof.Machine

/-- The state of an answer. -/
def after (o : Out) (s : State) : State := match o with | .next t => t | _ => s

/-! ### The crib, the granary and the stack decode -/

/-- A write to the crib's entries: ignored and counted while the slot is busy (R102). -/
def cribPut (s : State) (off : Nat) (b : List Byte) : State :=
  if cribBusy s ((off - 0xC00000) / 512) then { s with crib.dropCnt := s.crib.dropCnt + 1 }
  else { s with crib.mem := s.crib.mem.writeAll (off - 0xC00000) b }

/-- A write of 1 to GRAN_CTRL.inv_all (R259). -/
def execGranInvAll (port : Nat) (s : State) : Out := wr (.granInvAll port) s port 0xE00000 (fun _ => true) granInvalidate

/-- No bay holds a stream context, and no front-end request is outstanding (R415). -/
def stackIdle (s : State) : Bool := s.bay.all (fun (_, y) => y.ctxs.isEmpty) && s.fe.all fun r => s.feLate r.due

/-- The interleave that STK_ILV stores. -/
def ilvOf (v : Nat) : Nat := min 21 (max 9 (bits v 0 5))

/-- The offset of STK_BASE, STK_SIZE and STK_ILV. -/
def stkReg (which : Nat) : Nat := match which with | 0 => 0xE00020 | 1 => 0xE00028 | _ => 0xE00030

/-- A stack register takes its value, and every granary line becomes invalid (R415). -/
def setStack (s : State) (which : Nat) (v : DWord) : State :=
  let top : DWord := v &&& 0xFFFFFFFFC0000000#64
  granInvalidate (match which with
    | 0 => { s with gran.stkBase := top }
    | 1 => { s with gran.stkSize := top }
    | _ => { s with gran.stkIlv := ilvOf v.toNat })

/-- A port's pending low half of a register is dropped by its write of the whole register (R11). -/
def dropHalf (s : State) (port off : Nat) : State :=
  match s.cs.low.getD none port with
  | some (o, _) => if o = off then { s with cs.low := s.cs.low.put port none } else s
  | none => s

/-- A write to STK_BASE (0), STK_SIZE (1) or STK_ILV (2), which acts only while nothing uses the decode (R415). -/
def execStackDecodeWrite (port which : Nat) (value : DWord) (s : State) : Out :=
  wr (.stackDecodeWrite port which value) s port (stkReg which) (fun _ => decide (which < 3)) fun s =>
    let s := dropHalf s port (stkReg which)
    if stackIdle s then setStack s which value else s

/-! ### Queue counters -/

/-- A write to Q_ELEM_CNT, or to Q_CLIP_CNT (R127): the counter ends the GCLK with the value written and what that GCLK has added. -/
def execQueueCounterWrite (port q : Nat) (clip : Bool) (value : DWord) (s : State) : Out :=
  let off := qReg q (if clip then 0x28 else 0x20)
  wr (.queueCounterWrite port q clip value) s port off (fun _ => true) fun s =>
    let s := dropHalf s port off
    if q = 0 ∨ (s.getQ q).state = .absent then s
    else
      s.modQ q fun y =>
        if clip then { y with clipCnt := satAdd 64 value.toNat y.clipNow } else { y with elemCnt := satAdd 64 value.toNat y.elemNow }

/-! ### Writes by offset -/

/-- A 32-bit write to a register, as its row or its access code has it (R16). DESIGN CHOICE, log 15. -/
def set32 (s : State) (port off : Nat) (v : Word) : State :=
  let n := v.toNat
  let go (o : Out) : State := after o s
  let plain : State := go (wr (.registerWrite port off 4 (v.setWidth 64)) s port off (fun _ => true) fun s => put32 s off v)
  match off with
  | 0x18 => go (execEngTickCfgWrite port v s)
  | 0x1C => go (execEngLatTolWrite port v s)
  | 0x2C =>
    if !v.getLsbD 0 then plain
    else if v.getLsbD 1 then go (execFwReuse port s)
    else let (image, s) := s.freeBytes s.eng.fwLen.toNat; after (execFwLoad port image s) s
  | 0x208 => if 4 ≤ n % 16 ∧ n % 16 ≤ 12 then go (execAdminQueueEnable port v s) else go (execAdminQueueDisable port s)
  | 0x20C => go (execAdmStrike port s)
  | 0x10004 => go (execFltAck port v s)
  | 0x10014 => go (execFltInject port v s)
  | 0x20000 => go (execSigGlobalEnable port v s)
  | 0x20004 => go (execSigEoi port v s)
  | 0xE00000 => if v.getLsbD 0 then go (execGranInvAll port s) else plain
  | 0xE00030 => go (execStackDecodeWrite port 2 (BitVec.ofNat 64 n) s)
  | _ =>
    match blockOf off 0x10100 4 64, blockOf off 0x28000 32 64, blockOf off 0x100000 16 33280, blockOf off 0x200000 32 16384,
      blockOf off 0x400000 64 65536, blockOf off 0x800000 0x1000 96 with
    | some (k, 0), _, _, _, _, _ => go (execFltSrcCfgWrite port k v s)
    | _, some (c, 0x10), _, _, _, _ => go (execHstDoorbell port c (BitVec.ofNat 2 (n / 2 ^ 30)) (BitVec.ofNat 16 n) s)
    | _, _, some (k, 4), _, _, _ =>
      go (wr (.registerWrite port off 4 (v.setWidth 64)) s port off (fun _ => true) fun s =>
        let s := if v.getLsbD 9 then clrPend s k else s
        if v.getLsbD 8 then setPend s k else s)
    | _, _, _, some (t, 0xC), _, _ => if v.getLsbD 31 then go (execWatchdogArm port t v s) else plain
    | _, _, _, some (t, 0x10), _, _ => if v.getLsbD 0 then go (execTalFaultClear port t s) else plain
    | _, _, _, some (t, 0x14), _, _ => go (execTallyArrive port t (BitVec.ofNat 2 (n / 2 ^ 30)) (BitVec.ofNat 16 n) s)
    | _, _, _, some (t, 0x18), _, _ =>
      match n / 2 ^ 30 with
      | 1 => go (execTallyRelease port t s)
      | 2 => go (execTallyLoad port t (BitVec.ofNat 20 n) s)
      | 3 => go (execTallyPlainFire port t s)
      | _ => plain
    | _, _, _, _, some (q, 0), _ => go (execQStrike port q s)
    | _, _, _, _, some (q, 0x14), _ =>
      match n % 4 with
      | 1 => go (execEnable port q s)
      | 2 => go (execDisable port q s)
      | 3 => go (execAbort port q s)
      | _ => plain
    | _, _, _, _, _, some (k, 4) => go (execLinkEnable port k v s)
    | _, _, _, _, _, _ => plain

/-- A 64-bit register takes a whole value (R11). -/
def set64 (s : State) (port off : Nat) (v : DWord) : State :=
  if off = 0xE00020 then after (execStackDecodeWrite port 0 v s) s
  else if off = 0xE00028 then after (execStackDecodeWrite port 1 v s) s
  else
    match elemQueue off, clipQueue off with
    | some q, _ => after (execQueueCounterWrite port q false v s) s
    | none, some q => after (execQueueCounterWrite port q true v s) s
    | none, none => after (wr (.registerWrite port off 8 v) s port off (fun _ => true) fun s => put64 s off v) s

/-- The low half that a port's high-half write completes (R11): its pending half of this register, else the register's current low
half. -/
def pairHalf (s : State) (port off val : Nat) : Nat :=
  match s.cs.low.getD none port with
  | some (o, w) => if o = off then w.toNat else val % 2 ^ 32
  | none => val % 2 ^ 32

/-- A register's value without what this GCLK adds to it after every write (R127): Q_ELEM_CNT's and Q_CLIP_CNT's; of others, the value. -/
def ownVal (s : State) (off val : Nat) : Nat :=
  match elemQueue off, clipQueue off with
  | some q, _ => val - (s.getQ q).elemNow
  | none, some q => val - (s.getQ q).clipNow
  | none, none => val

/-- A write to a 64-bit register by a port: what it holds pending of it is dropped with a write that is not ignored (R11, R439). -/
def setWhole (s : State) (port off : Nat) (v : DWord) : State :=
  set64 (if testShut s port off then s else dropHalf s port off) port off v

/-- A 32-bit write (R9, R10, R11). -/
def write32 (s : State) (port off : Nat) (v : Word) : State :=
  match regAt s off with
  | some r =>
    if r.wide then
      noteWrite (if testShut s port off then s else { s with cs.low := s.cs.low.put port (some (off, v)) }) port off
    else set32 s port off v
  | none =>
    match if off % 8 = 4 then regAt s (off - 4) else none with
    | some r =>
      if r.wide then setWhole s port (off - 4) (BitVec.ofNat 64 (pairHalf s port (off - 4) (ownVal s (off - 4) r.val) + v.toNat * 2 ^ 32))
      else answered s port 0#64
    | none => answered s port 0#64

/-- Two 32-bit writes made by one access, which has one response (R9, R421). -/
def writePair (s : State) (port off : Nat) (v : DWord) : State :=
  let same (t : State) : State := { t with cs.resp := s.cs.resp, cs.id := s.cs.id, clk.ports := s.clk.ports }
  let t := write32 (same (write32 s port off (BitVec.ofNat 32 v.toNat))) port (off + 4) (BitVec.ofNat 32 (v.toNat / 2 ^ 32))
  answered (csGrant (same t) port) port 0#64

/-- A 64-bit write: a 64-bit register is set whole (R11); elsewhere it acts as two 32-bit writes (R9). -/
def write64 (s : State) (port off : Nat) (v : DWord) : State :=
  match regAt s off with
  | some r => if r.wide then setWhole s port off v else writePair s port off v
  | none => write32 s port (off + 4) (BitVec.ofNat 32 (v.toNat / 2 ^ 32))

/-- A control-space write of 4 or 8 bytes (R9); any other is ignored. Every access is answered (R421). -/
def csWrite (s : State) (port off size : Nat) (v : DWord) : State :=
  if (size = 4 ∧ off % 4 = 0) ∨ (size = 8 ∧ off % 8 = 0) then
    if inCrib off then answered (csGrant (cribPut s off (leBytes v.toNat size)) port) port 0#64
    else if size = 4 then write32 s port off (BitVec.ofNat 32 v.toNat)
    else write64 s port off v
  else answered s port 0#64

/-- A write to crib entries (R98, R102): `off` counts from the crib's base. -/
def execCribWrite (port off size : Nat) (value : DWord) (s : State) : Out :=
  if off < 0x80000 then csTake (.cribWrite port off size value) port s fun s => csWrite s port (0xC00000 + off) size value else .next s

/-- Whether an offset is that of a half of a 64-bit register. -/
def isHalf (s : State) (off : Nat) : Bool :=
  match regAt s (off / 8 * 8) with
  | some r => r.wide && off % 4 == 0
  | none => false

/-- A 32-bit write to a half of a 64-bit register (R11). -/
def execHalfWrite64 (port off : Nat) (value : Word) (s : State) : Out :=
  if isHalf s off then csTake (.halfWrite64 port off value) port s fun s => csWrite s port off 4 (BitVec.ofNat 64 value.toNat) else .next s

/-- A write to a register without a row of its own acts under its access code (R16). -/
def execRegisterWrite (port off size : Nat) (value : DWord) (s : State) : Out :=
  csTake (.registerWrite port off size value) port s fun s => csWrite s port off size value

/-! ### Reads -/

/-- A 32-bit read of a half of a 64-bit register (R12, R457). -/
def execLowHalfReadCapture (port off : Nat) (s : State) : Out := act s (isHalf s off && csRoom s port) fun s => portRead s port off 4

/-- A read of Q_ELEM_CNT, whole or of its low half (R128). -/
def execQElemCntRead (port q : Nat) (size : Nat) (s : State) : Out := 
  act s (decide (q < 65536) && csRoom s port) fun s => portRead s port (qReg q 0x20) size

/-- A control-space read; RC fields are cleared (R16, R18). -/
def execRcCounterRead (port off size : Nat) (s : State) : Out := act s (csRoom s port) fun s => portRead s port off size

end Sys2Proof.Machine
end

