-- ==== Sys2Proof/Machine/Debug.lean ====
section
/-! DEFINITION. Debug.lean: the debug access path and its TAP (R19, R449 to R451, R458, R403). -/
namespace Sys2Proof.Machine

/-- The mesh-port number under which the debug access path reaches the control space (R458). DEDUCED, log 16. -/
def dbgPort (s : State) : Nat := s.cfg.bays

/-- The bits of an address that a space's fields cover (Table 13.7). -/
def dbgMask (space : Nat) : Nat :=
  match space with
  | 0 => 2 ^ 55 + (2 ^ 26 - 1)
  | 1 => (2 ^ 54 - 2 ^ 48) + (2 ^ 20 - 2 ^ 3)
  | 2 => (2 ^ 54 - 2 ^ 48) + (2 ^ 47 - 2 ^ 40) + (2 ^ 18 - 1)
  | 3 => (2 ^ 48 - 2 ^ 32) + (2 ^ 19 - 1)
  | 4 => (2 ^ 54 - 2 ^ 48) + (2 ^ 11 - 1)
  | _ => 2 ^ 20 - 2 ^ 3

/-- Bytes of a control-space access through space 0. -/
def dbgSize (addr : Nat) : Nat := if bitAt addr 55 then 8 else 4

/-- The bay field of an address. -/
def dbgBay (addr : Nat) : Nat := bits addr 48 6

/-- Whether a space and address lie in Table 13.7 and in the configuration (R450). DESIGN CHOICE, log 24. -/
def dbgGood (s : State) (space addr : Nat) : Bool :=
  decide (space < 6) && addr &&& dbgMask space == addr
  && (match space with
    | 0 => bits addr 0 26 % dbgSize addr == 0
    | 1 => s.hasBay (dbgBay addr)
    | 2 => s.hasBay (dbgBay addr) && addr % 4 != 3
    | 3 => addr % 4 != 3
    | 4 => s.hasBay (dbgBay addr)
    | _ => true)

/-- A word whose contents the manual leaves to the moment (DESIGN CHOICE, log 9). -/
def dbgFree (s : State) : DWord × State := s.freeDWord

/-- An element's accumulator in an open bin. -/
def binAcc (s : State) (rid n : Nat) : Option Acc := (s.lnk.bins.find? fun b => b.rid == rid).bind fun b => b.accs[n]?

/-- An element's accumulator in the part that a stream context of a bay holds (R151): as its rows come in, and when they are all in. -/
def partAcc (s : State) (b ctx n : Nat) : Option Acc :=
  s.flights.findSome? fun f => (f.parts.zipIdx.find? fun (p, _) => p.bay == b && p.ctx == some ctx && !p.gone).bind fun (p, i) =>
    if opOf f.raw = some .contract ∧ (f.stage = .first ∨ f.stage = .second) then (partAccsNow s f i)[n]? else p.accs[n]?

/-- Word 0, 1 or 2 of an accumulator: acc.a, the saturated sum, in its 16 bytes, then its flag byte (R148, R151, Table 5.4). -/
def accWord (a : Acc) (w : Nat) : Nat :=
  let a := accFinal a
  if w = 2 then a.fl % 256 else bits (unsext 128 a.s) (64 * w) 64

/-- Word 0 or 1 of a map-cache entry (Table 13.7). DESIGN CHOICE, log 24. -/
def mapWord (e : Option MapEnt) (w : Nat) : Nat :=
  match e with
  | none => 0
  | some e => if w = 0 then e.va / 4096 * 4096 + 8 + e.size % 8 else e.pa / 4096 * 4096

/-- The word that a debug read returns. Entries of a map cache are numbered from the most recently used. -/
def dbgWord (s : State) (space addr : Nat) : DWord × State :=
  match space with
  | 0 =>
    let (v, s) := csRead s (dbgPort s) (bits addr 0 26) (dbgSize addr) false
    (BitVec.ofNat 64 v, s)
  | 1 => if (s.getB (dbgBay addr)).loftClear then (0#64, s) else dbgFree s
  | 2 =>
    match partAcc s (dbgBay addr) (bits addr 40 7) (bits addr 2 16) with
    | some a => (BitVec.ofNat 64 (accWord a (addr % 4)), s)
    | none => let (v, s) := dbgFree s; (if addr % 4 = 2 then v &&& 0xFF#64 else v, s)
  | 3 =>
    match binAcc s (bits addr 32 16) (bits addr 2 17) with
    | some a => (BitVec.ofNat 64 (bits (accRaw a) (64 * (addr % 4)) 64), s)
    | none => dbgFree s
  | 4 => (BitVec.ofNat 64 (mapWord ((s.getB (dbgBay addr)).mapc[bits addr 1 10]?) (addr % 2)), s)
  | _ => (BitVec.ofNat 64 (leNat (s.eng.gmem.readN (bits addr 0 20) 8)), s)

/-- The address after the word index has advanced by 1. DESIGN CHOICE, log 24. -/
def dbgNext (space addr : Nat) : Nat :=
  let step (n lo : Nat) : Nat := setBits addr 0 n ((bits addr 0 n + lo) % 2 ^ n)
  match space with
  | 0 => step 26 (dbgSize addr)
  | 1 => step 20 8
  | 2 => step 18 (if addr % 4 = 2 then 2 else 1)
  | 3 => step 19 (if addr % 4 = 2 then 2 else 1)
  | 4 => step 11 1
  | _ => step 20 8

/-- An operation ends: its result waits for Capture-DR, and it is counted when it was carried out. DESIGN CHOICE, log 24. -/
def dbgDone (s : State) (status : BitVec 4) (space addr : Nat) (data : DWord) : State :=
  { s with dbg := { s.dbg with status, space := BitVec.ofNat 4 space, addr, data, tapReset := false
                               dapCnt := if status = 0#4 then s.dbg.dapCnt + 1 else s.dbg.dapCnt } }

/-- An operation that is turned away; the captured data are not defined (DESIGN CHOICE, log 9). -/
def dbgRefuse (s : State) (status : BitVec 4) (space addr : Nat) : State :=
  let (v, s) := dbgFree s
  dbgDone s status space addr v

/-- A read, with the address that it leaves. -/
def dbgReadTo (s : State) (space addr next : Nat) : State :=
  if dbgGood s space addr then
    let (v, s) := dbgWord s space addr
    dbgDone s 0#4 space next v
  else dbgRefuse s 2#4 space addr

/-- Outside FROZEN an access is an emergency request: in this GCLK it takes every grant of the arbiters of Table 7.5 that name the debug
access path (R264, R451). DESIGN CHOICE, log 24. -/
def dbgEmergency (s : State) : State := if s.runs then { s with dbg.busy := true } else s

/-- A debug read (R449, R450); it works on a frozen engine too (R451). -/
def execDebugRead (space addr : Nat) (s : State) : Out := .next (dbgEmergency (dbgReadTo s space addr addr))

/-- A debug read that then advances the word index (Table 13.6). -/
def execDebugReadAdvance (space addr : Nat) (s : State) : Out := .next (dbgEmergency (dbgReadTo s space addr (dbgNext space addr)))

/-- Whether writes of the granger's in this GCLK are still to be applied. -/
def grangerDue (s : State) : Bool := !s.cs.cur && (!s.cs.late.isEmpty || s.pending.any csGranger)

/-- A debug write: only into the control space of an engine that is not frozen (R450), after every write of a mesh port and of the granger
in its GCLK (R458); the access is busy until then. -/
def execDebugWrite (space addr : Nat) (data : DWord) (s : State) : Out :=
  .next (dbgEmergency (
    if s.runs && grangerDue s then { s with cs.late := s.cs.late ++ [.debugWrite space addr data] }
    else if !dbgGood s space addr then dbgRefuse s 2#4 space addr
    else if space ≠ 0 ∨ !s.runs then dbgRefuse s 3#4 space addr
    else
      let (v, s) := dbgFree (csWrite s (dbgPort s) (bits addr 0 26) (dbgSize addr) data)
      dbgDone s 0#4 space addr v))

/-! ### The data register (R449, Table 13.6) -/

/-- What Capture-DR loads: status, space, address and data; busy while an access is an emergency request (R451). -/
def dbgCapture (d : Debug) : BitVec 128 :=
  (if d.busy then 1#4 else d.status) ++ d.space ++ BitVec.ofNat 56 d.addr ++ d.data

/-- The operation that Update-DR starts from what has been shifted in: none for op 0 and for the ops that Table 13.6 does not name. -/
def dbgDecode (r : BitVec 128) : Option Instr :=
  let space := (r.extractLsb' 120 4).toNat
  let addr := (r.extractLsb' 64 56).toNat
  match (r.extractLsb' 124 4).toNat with
  | 1 => some (.debugRead space addr)
  | 2 => some (.debugWrite space addr (r.extractLsb' 0 64))
  | 3 => some (.debugReadAdvance space addr)
  | _ => none

/-- Update-DR: the operation that the register holds is the next command. -/
def updateDr (s : State) (r : BitVec 128) : State :=
  match dbgDecode r with
  | some c => { s with pending := c :: s.pending }
  | none => s

/-- trst_n resets the TAP controller alone (R403). -/
def execTapControllerReset (s : State) : Out := .next { s with dbg.tapReset := true }

end Sys2Proof.Machine
end

