-- ==== Sys2Proof/Machine/Streams.lean ====
section
/-!
DEFINITION. Streams.lean: dispatch of parts, the winnow record, completion and progress arrivals, owner masks and real-time
budgets (07).
-/
namespace Sys2Proof.Machine

/-- The least free context number of a bay. -/
def freeCtx (y : Bay) : Nat := ((List.range 128).find? fun c => !y.ctxs.contains c).getD 0

/-- Gives a waiting part its context and loft; the entry counts as dispatched from its first part on (DESIGN CHOICE, log 7). -/
def startPart (s : State) (b : Nat) (f : Flight) (i : Nat) : State :=
  let y := s.getB b
  let c := freeCtx y
  let p := f.parts.getD i { bay := b }
  let s := s.setB b { y with ctxs := c :: y.ctxs, loft := y.loft + p.loft, loftClear := y.loftClear && p.loft == 0
                             waits := y.waits.filter fun w => w != (f.id, i)
                             since := s.clk.gclk }
  let s := s.setF { f with parts := f.parts.zipIdx.map fun (x, k) => if k = i then { x with ctx := some c } else x }
  s.modQ f.q fun q => match q.slotAt f.pos with
    | some x => if x.st == .fetched then (q.setSlot { x with st := .dispatched }).noteFront s.clk.gclk else q
    | none => q

/-- A part is dispatched. A link instruction whose port is not UP ends at once instead (R193), and so does an MCAST whose
receivers are all detached (R201). -/
def dispatchPart (s : State) (b : Nat) (f : Flight) (i : Nat) : State :=
  if opOf f.raw = some .mcast then
    let rs := receivers f.list
    let down := rs.filter fun r => r.remote && !portUp s r.port
    let s := mcastDown s f.q f.pos rs
    if down.length = rs.length then endAtOnce s f.q f.pos true false
    else pump (startPart s b { f with xfers := down.map (detachedXfer s.clk.gclk), cut := f.cut || !down.isEmpty } i) f.id
  else
    match f.port with
    | some n =>
      if portUp s n then pump (startPart s b f i) f.id else endAtOnce (notUpNote s f.q f.pos n 0) f.q f.pos true false
    | none => pump (startPart s b f i) f.id

/-- The head of a bay's wait order is dispatched (R226 to R228); when none can be, an OPEN that waits for a context is
served (R195). -/
def execPartDispatch (bay : Nat) (s : State) : Out :=
  act s (!s.held && decide (bay < s.cfg.bays)) fun s =>
    match waitHead s bay with
    | none => serveHeld s bay
    | some (id, i) =>
      match s.flightOf id with
      | none => s
      | some f =>
        if bayTakes (s.getB bay) (f.parts.getD i { bay }).loft then dispatchPart s bay f i else serveHeld s bay

/-! ### The winnow record (R123 to R125) -/

/-- The kind byte of a record (Table 4.4). -/
def recKind (e : Nat) : Nat := match opOf e with | some .pack => 1 | some .unpack => 2 | _ => 3

/-- The 32 bytes of a winnow record (Table 4.4). -/
def recordBytes (f : Flight) : List Byte :=
  let big := 2 ^ 32 - 1
  let sat := decide (f.degen > big) || decide (f.nonfin > big) || decide (f.psnGran.length > big)
  leBytes f.elem 8 ++ leBytes f.clip 8 ++ leBytes (min f.degen big) 4 ++ leBytes (min f.nonfin big) 4
  ++ leBytes (min f.psnGran.length big) 4 ++ leBytes (recKind f.raw) 1 ++ leBytes (b2n sat + 2 * b2n (f.bad || f.missed)) 1
  ++ leBytes 0 2

/-- Every data and side-stream write has been answered: the record is written (R124). It holds no stream context.
DESIGN CHOICE, log 23. -/
def execWinnowRecordWrite (q pos : Nat) (s : State) : Out :=
  match s.flightAt q pos with
  | none => .next s
  | some f =>
    act s (f.stage == .writing && wantsRecord f && !f.parts.isEmpty && f.parts.all (·.gone) && !s.held) fun s =>
      let data := recordBytes f
      let w := runWrites .other 256 (eWinBase f.raw) 0 (data.map fun b => (b, false))
      -- the bytes that overlap the side stream are not defined (R117)
      let sc := if eScaleRule f.raw = 0 then [] else
        [(eScBase f.raw, eScBase f.raw + (if opOf f.raw = some .contract then (eSrc f.raw).cnt2 * (eSrc f.raw).cnt3 * eIdxLim f.raw * ((eSrc f.raw).run / sheafLen f.raw (eSrc f.raw).run)
          else (eSrc f.raw).total / max 1 (unitLen f.raw (if opOf f.raw = some .pack then (eDst f.raw).run else (eSrc f.raw).run))) * scBytes f.raw)]
      let (s, w) := freeWrites s (inRanges sc) w
      let n := f.parts.length
      pump (s.setF { f with stage := .recording, parts := f.parts ++ [{ bay := f.bayOf 0, ctx := some 128 }]
                            wtodo := w.map fun r => { r with part := n } }) f.id

/-! ### Arrivals (R233 to R242) -/

/-- The kind of an instruction's arrival (R235). -/
def arrivalKind (f : Flight) : Arr := if f.cut then .abandoned else if f.bad || f.missed then .faulted else .normal

/-- Progress arrivals of an instruction (R241): floor(cnt3 / N), none for N = 0 or an opcode without them. -/
def progressTotal (e : Nat) : Nat := if ePeriod e = 0 then 0 else (eSrc e).cnt3 / ePeriod e

/-- The first element past the slices of progress arrival k. -/
def progressEnd (e k : Nat) : Nat := k * ePeriod e * ((eSrc e).cnt1 * (eSrc e).cnt2 * (eSrc e).run)

/-- The kind of progress arrival k (R242). -/
def progressKind (f : Flight) (k : Nat) : Arr :=
  if f.cut then .abandoned
  else if f.missed || (match f.badFrom with | some n => decide (n < progressEnd f.raw k) | none => false) then .faulted
  else .normal

/-- Delivers the next progress arrival. -/
def deliverProgress (s : State) (id : Nat) : State :=
  match s.flightOf id with
  | none => s
  | some f => arrive (s.setF { f with prog := f.prog + 1 }) (ePtally f.raw) (progressKind f (f.prog + 1)) 1

/-- Whether every write of the elements before `lim` has been answered. -/
def writesAnswered (s : State) (f : Flight) (lim : Nat) : Bool :=
  (f.stage == .writing || f.stage == .recording || f.stage == .complete)
  && (mcFed f || decide (lim ≤ f.seq)) && !(f.wtodo.any fun w => w.side != .other && decide (w.elem < lim))
  && !(s.writes.any fun w => w.flight == f.id && w.req.side != .other && decide (w.req.elem < lim))

/-- The next progress arrival is due (R241). -/
def execProgressArrival (q pos : Nat) (s : State) : Out :=
  match s.flightAt q pos with
  | none => .next s
  | some f =>
    act s (!f.cut && decide (f.prog < progressTotal f.raw) && writesAnswered s f (progressEnd f.raw (f.prog + 1))) fun s =>
      deliverProgress s f.id

/-- Whether an opcode adds to its queue's counters (R126). -/
def countsElems (e : Nat) : Bool :=
  match opOf e with | some .cast | some .pack | some .unpack | some .contract => true | _ => false

/-- Adds an instruction's counts to its queue (R126). -/
def addCounts (s : State) (f : Flight) : State :=
  if countsElems f.raw then
    s.modQ f.q fun y => { y with 
      elemCnt := satAdd 64 y.elemCnt f.elem, clipCnt := satAdd 64 y.clipCnt f.clip
      elemNow := y.elemNow + f.elem, clipNow := y.clipNow + f.clip }
  else s

/-- An entry whose instruction has delivered its arrival: it retires, unless it was aborted (R301). -/
def closeEntry (s : State) (q pos : Nat) : State :=
  match (s.getQ q).slotAt pos with
  | some x => if x.st == .dispatched then retire s q pos else settle (s.modQ q fun y => { y with pub := false }) q
  | none => settle (s.modQ q fun y => { y with pub := false }) q

/-- The completion arrival of an instruction, when it has one (R233, R235). -/
def endArrive (s : State) (f : Flight) : State := if eCen f.raw then arrive s (eCtally f.raw) (arrivalKind f) 1 else s

/-- The owner's private slots of a faulted and of an abandoned instruction (Table 10.3). -/
def endPulse (s : State) (q : Nat) (k : Arr) : State :=
  if k = .faulted then pulseOwner s q 2 else if k = .abandoned then pulseOwner s q 3 else s

/-- The arrival of an instruction (R126, R233, R235, R241, R251): what progress is left, its counts, its records, the
completion arrival, its owner's sources, its entry. -/
def deliverCompletion (s : State) (f : Flight) : State :=
  let s := recordFaults s f.id
  let s := each s (List.range (progressTotal f.raw - f.prog)) fun s _ => deliverProgress s f.id
  let s := endPulse (endArrive (addCounts s f) f) f.q (arrivalKind f)
  closeEntry (homeEnded (s.dropF f.id) f.id) f.q f.pos

/-- The completion arrival is delivered once the last part has retired and any record is answered (R124, R233, R271). -/
def execCompletionArrival (q pos : Nat) (s : State) : Out :=
  match s.flightAt q pos with
  | none => .next s
  | some f => act s (f.stage == .complete) fun s => deliverCompletion s f

/-! ### Masks and budgets -/

/-- A source active at a core becomes inactive and pending (R373). -/
def maskSource (core : Nat) (x : Src) : Src :=
  if x.active && x.core == core then { x with active := false, pending := x.pending || x.cfg.getLsbD 31 } else x

/-- A core's mask bit rises (R270, R300, R373, R426). -/
def execOwnerMaskRise (pwr : Bool) (core : Nat) (s : State) : Out :=
  act s (!(if pwr then s.masks.pwr else s.masks.rst).contains core) fun s =>
    let s := if pwr then { s with masks.pwr := core :: s.masks.pwr } else { s with masks.rst := core :: s.masks.rst }
    let woken := s.sig.src.any fun (_, x) => x.active && x.core == core
    let s := if woken then clockUp s else s
    let s := { s with sig.src := s.sig.src.map fun (n, x) => (n, maskSource core x), sig.offer := s.sig.offer.put core none }
    recordCuts (each s (s.qs.keys.filter fun q => (s.getQ q).owner == core && (s.getQ q).state != .absent) fun s q => abortQueue s q true) []

/-- A core's mask bit falls (R371, R426). -/
def execCoreMaskFall (pwr : Bool) (core : Nat) (s : State) : Out :=
  act s true fun s =>
    pumpAll (if pwr then { s with masks.pwr := s.masks.pwr.filter (· != core) } else { s with masks.rst := s.masks.rst.filter (· != core) })

/-- A real-time queue's consumption has reached its budget in this tick (R272). -/
def execRtBudgetExhausted (q : Nat) (s : State) : Out :=
  let y := s.getQ q
  act s (y.rtBudget != 0 && !y.rtOut && decide (y.rtUsed ≥ 256 * y.rtBudget)) fun s => s.setQ q { y with rtOut := true }

end Sys2Proof.Machine
end

