-- ==== Sys2Proof/Machine/Dispatch.lean ====
section
/-! DEFINITION. Dispatch.lean: the meaning of each command, one arm per row of the table. -/
namespace Sys2Proof.Machine

/-- The effect of a command on everything but the queue of waiting commands. -/
def exec (i : Instr) (s : State) : Host.Outcome State Fault Refusal :=
  match i with
  | .move q pos => Sys2Proof.Machine.execMove q pos s
  | .fill q pos => Sys2Proof.Machine.execFill q pos s
  | .cast q pos => Sys2Proof.Machine.execCast q pos s
  | .pack q pos => Sys2Proof.Machine.execPack q pos s
  | .unpack q pos => Sys2Proof.Machine.execUnpack q pos s
  | .gather q pos => Sys2Proof.Machine.execGather q pos s
  | .scatter q pos => Sys2Proof.Machine.execScatter q pos s
  | .scatterAdd q pos => Sys2Proof.Machine.execScatterAdd q pos s
  | .contract q pos => Sys2Proof.Machine.execContract q pos s
  | .linkput q pos => Sys2Proof.Machine.execLinkput q pos s
  | .linkreduceSend q pos => Sys2Proof.Machine.execLinkreduceSend q pos s
  | .linkreduceHome q pos => Sys2Proof.Machine.execLinkreduceHome q pos s
  | .mcast q pos => Sys2Proof.Machine.execMcast q pos s
  | .fenceFull q => Sys2Proof.Machine.execFenceFull q s
  | .fenceReads q => Sys2Proof.Machine.execFenceReads q s
  | .fenceReadsRetire q pos => Sys2Proof.Machine.execFenceReadsRetire q pos s
  | .fenceNone q => Sys2Proof.Machine.execFenceNone q s
  | .signal q => Sys2Proof.Machine.execSignal q s
  | .await q => Sys2Proof.Machine.execAwait q s
  | .tickwaitRelative q => Sys2Proof.Machine.execTickwaitRelative q s
  | .tickwaitAligned q => Sys2Proof.Machine.execTickwaitAligned q s
  | .link q => Sys2Proof.Machine.execLink q s
  | .nop q => Sys2Proof.Machine.execNop q s
  | .createQueue => Sys2Proof.Machine.execCreateQueue s
  | .destroyQueue => Sys2Proof.Machine.execDestroyQueue s
  | .setClass => Sys2Proof.Machine.execSetClass s
  | .setRt => Sys2Proof.Machine.execSetRt s
  | .loadCodebook => Sys2Proof.Machine.execLoadCodebook s
  | .loadCodebookDone timeout r => Sys2Proof.Machine.execLoadCodebookDone timeout r s
  | .invalidateEntries => Sys2Proof.Machine.execInvalidateEntries s
  | .bindTally => Sys2Proof.Machine.execBindTally s
  | .shootdownMap => Sys2Proof.Machine.execShootdownMap s
  | .shootdownComplete n => Sys2Proof.Machine.execShootdownComplete n s
  | .query => Sys2Proof.Machine.execQuery s
  | .adminCommandFetch timeout r => Sys2Proof.Machine.execAdminCommandFetch timeout r s
  | .adminCompletion => Sys2Proof.Machine.execAdminCompletion s
  | .adminIndexWriteResponse sts => Sys2Proof.Machine.execAdminIndexWriteResponse sts s
  | .adminQueueEnable port value => Sys2Proof.Machine.execAdminQueueEnable port value s
  | .adminQueueDisable port => Sys2Proof.Machine.execAdminQueueDisable port s
  | .admStrike port => Sys2Proof.Machine.execAdmStrike port s
  | .qStrike port q => Sys2Proof.Machine.execQStrike port q s
  | .indexBlockReadReturn q r => Sys2Proof.Machine.execIndexBlockReadReturn q r s
  | .entryFetch q two => Sys2Proof.Machine.execEntryFetch q two s
  | .entryFetchReturn q pos r => Sys2Proof.Machine.execEntryFetchReturn q pos r s
  | .fetchTimeout q entryRead pos => Sys2Proof.Machine.execFetchTimeout q entryRead pos s
  | .push port q off data => Sys2Proof.Machine.execPush port q off data s
  | .enable port q => Sys2Proof.Machine.execEnable port q s
  | .disable port q => Sys2Proof.Machine.execDisable port q s
  | .abort port q => Sys2Proof.Machine.execAbort port q s
  | .partDispatch bay => Sys2Proof.Machine.execPartDispatch bay s
  | .winnowRecordWrite q pos => Sys2Proof.Machine.execWinnowRecordWrite q pos s
  | .completionArrival q pos => Sys2Proof.Machine.execCompletionArrival q pos s
  | .progressArrival q pos => Sys2Proof.Machine.execProgressArrival q pos s
  | .headWrite q => Sys2Proof.Machine.execHeadWrite q s
  | .headWriteResponse q sts => Sys2Proof.Machine.execHeadWriteResponse q sts s
  | .queueStructureWriteTimeout q => Sys2Proof.Machine.execQueueStructureWriteTimeout q s
  | .ownerMaskRise pwr core => Sys2Proof.Machine.execOwnerMaskRise pwr core s
  | .readResponse bay tag r => Sys2Proof.Machine.execReadResponse bay tag r s
  | .writeResponse bay tag sts => Sys2Proof.Machine.execWriteResponse bay tag sts s
  | .fillBeat slice line beat r => Sys2Proof.Machine.execFillBeat slice line beat r s
  | .translationRequest bay va => Sys2Proof.Machine.execTranslationRequest bay va s
  | .translationCompletion bay req sts addr size r w => Sys2Proof.Machine.execTranslationCompletion bay req sts addr size r w s
  | .atsInvalidationRequest addr log2 itag => Sys2Proof.Machine.execAtsInvalidationRequest addr log2 itag s
  | .tick => Sys2Proof.Machine.execTick s
  | .tickInEdge => Sys2Proof.Machine.execTickInEdge s
  | .internalTick => Sys2Proof.Machine.execInternalTick s
  | .tickSourceLost => Sys2Proof.Machine.execTickSourceLost s
  | .tallyArrive port t kind count => Sys2Proof.Machine.execTallyArrive port t kind count s
  | .tallyRelease port t => Sys2Proof.Machine.execTallyRelease port t s
  | .tallyLoad port t value => Sys2Proof.Machine.execTallyLoad port t value s
  | .tallyPlainFire port t => Sys2Proof.Machine.execTallyPlainFire port t s
  | .watchdogArm port t value => Sys2Proof.Machine.execWatchdogArm port t value s
  | .talFaultClear port t => Sys2Proof.Machine.execTalFaultClear port t s
  | .tallyWatchdogExpiry t => Sys2Proof.Machine.execTallyWatchdogExpiry t s
  | .hstDoorbell port c kind count => Sys2Proof.Machine.execHstDoorbell port c kind count s
  | .hostNotify c => Sys2Proof.Machine.execHostNotify c s
  | .hostNotifyResponse c timeout sts => Sys2Proof.Machine.execHostNotifyResponse c timeout sts s
  | .signalSourceInput src value => Sys2Proof.Machine.execSignalSourceInput src value s
  | .vectorOffer core => Sys2Proof.Machine.execVectorOffer core s
  | .vectorTransfer core => Sys2Proof.Machine.execVectorTransfer core s
  | .sigEoi port value => Sys2Proof.Machine.execSigEoi port value s
  | .sigPendSet port src => Sys2Proof.Machine.execSigPendSet port src s
  | .sigPendClr port src => Sys2Proof.Machine.execSigPendClr port src s
  | .sigGlobalEnable port value => Sys2Proof.Machine.execSigGlobalEnable port value s
  | .distributorClockRestart => Sys2Proof.Machine.execDistributorClockRestart s
  | .fltAck port value => Sys2Proof.Machine.execFltAck port value s
  | .fltInject port value => Sys2Proof.Machine.execFltInject port value s
  | .fltSrcCfgWrite port src value => Sys2Proof.Machine.execFltSrcCfgWrite port src value s
  | .safeStateEntry => Sys2Proof.Machine.execSafeStateEntry s
  | .recovery => Sys2Proof.Machine.execRecovery s
  | .bayFault bay cause ctx => Sys2Proof.Machine.execBayFault bay cause ctx s
  | .bayClearDone bay => Sys2Proof.Machine.execBayClearDone bay s
  | .grangerFault cause pc => Sys2Proof.Machine.execGrangerFault cause pc s
  | .grangerRestart => Sys2Proof.Machine.execGrangerRestart s
  | .eccCorrected st unit word => Sys2Proof.Machine.execEccCorrected st unit word s
  | .eccUncorrectable st unit word q pos => Sys2Proof.Machine.execEccUncorrectable st unit word q pos s
  | .linkEnable port n value => Sys2Proof.Machine.execLinkEnable port n value s
  | .linkReset port n value => Sys2Proof.Machine.execLinkReset port n value s
  | .phyUpRise n => Sys2Proof.Machine.execPhyUpRise n s
  | .helloTimer n => Sys2Proof.Machine.execHelloTimer n s
  | .transmitFlit n => Sys2Proof.Machine.execTransmitFlit n s
  | .receiveHello n f => Sys2Proof.Machine.execReceiveHello n f s
  | .receiveIdle n f => Sys2Proof.Machine.execReceiveIdle n f s
  | .receiveNak n f => Sys2Proof.Machine.execReceiveNak n f s
  | .receiveBadFlit n rxBad raw => Sys2Proof.Machine.execReceiveBadFlit n rxBad raw s
  | .nakRepeatTimer n => Sys2Proof.Machine.execNakRepeatTimer n s
  | .receiveOpenPut n f => Sys2Proof.Machine.execReceiveOpenPut n f s
  | .receiveOpenReduce n f => Sys2Proof.Machine.execReceiveOpenReduce n f s
  | .receiveData n f => Sys2Proof.Machine.execReceiveData n f s
  | .receiveResp n f => Sys2Proof.Machine.execReceiveResp n f s
  | .receiveCancel n f => Sys2Proof.Machine.execReceiveCancel n f s
  | .receiveStreamComplete n xid => Sys2Proof.Machine.execReceiveStreamComplete n xid s
  | .peerLost n => Sys2Proof.Machine.execPeerLost n s
  | .creditStall n vc => Sys2Proof.Machine.execCreditStall n vc s
  | .remoteTimeout n xid receiver => Sys2Proof.Machine.execRemoteTimeout n xid receiver s
  | .multicastDetach q pos idx => Sys2Proof.Machine.execMulticastDetach q pos idx s
  | .busyRetry q pos => Sys2Proof.Machine.execBusyRetry q pos s
  | .reduceBinUnavailable q pos => Sys2Proof.Machine.execReduceBinUnavailable q pos s
  | .reduceBinIdleAbandon rid => Sys2Proof.Machine.execReduceBinIdleAbandon rid s
  | .binResultWrite rid => Sys2Proof.Machine.execBinResultWrite rid s
  | .bayIdleEntry bay => Sys2Proof.Machine.execBayIdleEntry bay s
  | .bayNapEntry bay => Sys2Proof.Machine.execBayNapEntry bay s
  | .bayDormantEntry bay => Sys2Proof.Machine.execBayDormantEntry bay s
  | .bayWake bay => Sys2Proof.Machine.execBayWake bay s
  | .bayWakeDone bay => Sys2Proof.Machine.execBayWakeDone bay s
  | .bayWakeForWaitingPart bay => Sys2Proof.Machine.execBayWakeForWaitingPart bay s
  | .engLatTolWrite port value => Sys2Proof.Machine.execEngLatTolWrite port value s
  | .fwLoad port image => Sys2Proof.Machine.execFwLoad port image s
  | .fwReuse port => Sys2Proof.Machine.execFwReuse port s
  | .fwDigestCheck => Sys2Proof.Machine.execFwDigestCheck s
  | .imageReadFailure timeout => Sys2Proof.Machine.execImageReadFailure timeout s
  | .selfTestPass => Sys2Proof.Machine.execSelfTestPass s
  | .selfTestFail cause bay => Sys2Proof.Machine.execSelfTestFail cause bay s
  | .selfTestTimeout => Sys2Proof.Machine.execSelfTestTimeout s
  | .coldReset => Sys2Proof.Machine.execColdReset s
  | .warmReset => Sys2Proof.Machine.execWarmReset s
  | .cribStatRecomputeDone => Sys2Proof.Machine.execCribStatRecomputeDone s
  | .freeze => Sys2Proof.Machine.execFreeze s
  | .debugRead space addr => Sys2Proof.Machine.execDebugRead space addr s
  | .debugWrite space addr data => Sys2Proof.Machine.execDebugWrite space addr data s
  | .debugReadAdvance space addr => Sys2Proof.Machine.execDebugReadAdvance space addr s
  | .granInvAll port => Sys2Proof.Machine.execGranInvAll port s
  | .stackDecodeWrite port which value => Sys2Proof.Machine.execStackDecodeWrite port which value s
  | .engTickCfgWrite port value => Sys2Proof.Machine.execEngTickCfgWrite port value s
  | .cribWrite port off size value => Sys2Proof.Machine.execCribWrite port off size value s
  | .queueCounterWrite port q clip value => Sys2Proof.Machine.execQueueCounterWrite port q clip value s
  | .halfWrite64 port off value => Sys2Proof.Machine.execHalfWrite64 port off value s
  | .lowHalfReadCapture port off => Sys2Proof.Machine.execLowHalfReadCapture port off s
  | .qElemCntRead port q size => Sys2Proof.Machine.execQElemCntRead port q size s
  | .rcCounterRead port off size => Sys2Proof.Machine.execRcCounterRead port off size s
  | .registerWrite port off size value => Sys2Proof.Machine.execRegisterWrite port off size value s
  | .coreMaskFall pwr core => Sys2Proof.Machine.execCoreMaskFall pwr core s
  | .tapControllerReset => Sys2Proof.Machine.execTapControllerReset s
  | .rtBudgetExhausted q => Sys2Proof.Machine.execRtBudgetExhausted q s

end Sys2Proof.Machine
end

