-- ==== Sys2Proof/Machine/Access.lean ====
section
/-!
DEFINITION. Access.lean: the rounds of the control-space write arbiter, in which the mesh ports' writes that wait are applied (Table 7.5,
R261 to R266, R310, R421, R458).
-/
namespace Sys2Proof.Machine

/-- The mesh ports with writes that wait, in rising number. -/
def csAsking (s : State) : List Nat := (List.range s.cfg.bays).filter fun p => s.cs.wait.any fun i => csPort i == some p

/-- The round of a GCLK (R261): ports whose base class is 0 (R262), of which those that have had their grant ask again in the next one. The
ports that are granted, and the arbiter after it. -/
def csRound (s : State) : List Nat × Arb :=
  let used := s.clk.ports.eraseDups
  let (won, a) := arbRound s.cfg.grantHold (4 - used.length) s.cs.arb
    (((csAsking s).filter fun p => !used.contains p).map fun p => { i := p, base := 0 })
  let kept := if s.cfg.grantHold then (csAsking s).filter used.contains else []
  (won, kept.foldl (fun a p => a.put p { loss := 0, hold := true }) a)

/-- A command whose write is applied now. -/
def csApply (s : State) (i : Instr) : State := after (exec i s) s

/-- Takes the oldest write of a port out of those that wait. -/
def csErase (p : Nat) : List Instr → List Instr
  | [] => []
  | i :: l => if csPort i = some p then l else i :: csErase p l

/-- The oldest write of a port that waits is applied. -/
def csServe (s : State) (p : Nat) : State :=
  match s.cs.wait.find? fun i => csPort i == some p with
  | some i => csApply { s with cs.wait := csErase p s.cs.wait } i
  | none => s

/-- The responses that are ready, in the order of acceptance, are presented (R421): as many as are. DESIGN CHOICE, log 38. -/
def csPresent (s : State) (p : Nat) : State :=
  let l := s.cs.resp.getD [] p
  match (l.takeWhile (·.done)).getLast? with
  | some x => { s with cs.resp := s.cs.resp.put p (l.dropWhile (·.done)), cs.last := s.cs.last.put p x }
  | none => s

/-- The end of a GCLK at the control-space ports: the writes granted are applied in rising port number (R310), none while the debug
access path holds the arbiter (R264); then the granger's; then the debug access path's (R458). -/
def csPass (s : State) : State :=
  if !s.runs then s
  else
    let r := if s.dbg.busy then ([], s.cs.arb) else csRound s
    let late := s.cs.late
    let s := { s with cs.cur := true, cs.late := [], cs.arb := r.2 }
    let s := each s ((List.range s.cfg.bays).filter r.1.contains) csServe
    let s := each s (late.filter csGranger ++ late.filter csDebug) csApply
    let s := { s with cs.cur := false }
    each s s.cs.resp.keys csPresent

end Sys2Proof.Machine
end

