-- ==== Sys2Proof/WellFormed.lean ====
section
/-!
DEFINITION. WellFormed.lean: the ranges of a command's operands: what a sender can put on the block's ports.
-/
namespace Sys2Proof

/-- A response to a read: at most 256 bytes (R406, R416). -/
def Resp.wf (r : Resp) : Bool := decide (r.data.length ≤ 256)

/-- A flit as Tables 6.3 and 6.4 lay it out: fields within their widths, four credit counts, 240 bytes of payload. -/
def Flit.wf (f : Flit) : Bool :=
  decide (f.kind < 16) && decide (f.vc < 4) && decide (f.seq < 4096) && decide (f.ack < 4096)
  && decide (f.xid < 65536) && decide (f.crd.length = 4) && f.crd.all (fun c => decide (c < 256))
  && decide (f.payload.length = 240)

/-- A mesh-port number, or BAYS for the debug access path. -/
def portOk (c : Config) (port : Nat) : Bool := decide (port ≤ c.bays)
/-- A queue number (R2). -/
def queueOk (q : Nat) : Bool := decide (q < 65536)
/-- A queue number and a ring position (R276). -/
def posOk (q pos : Nat) : Bool := queueOk q && decide (pos < 131072)
/-- A tally number (R2). -/
def tallyOk (t : Nat) : Bool := decide (t < 16384)
/-- An interrupt source (R367). -/
def sourceOk (n : Nat) : Bool := decide (n < 33280)
/-- A core number (R41). -/
def coreOk (n : Nat) : Bool := decide (n < 2048)
/-- An offset in the 64 MiB window. -/
def offOk (o : Nat) : Bool := decide (o < 67108864)
/-- A register access size (R9). -/
def sizeOk (n : Nat) : Bool := n == 4 || n == 8

/-- Whether a command's operands are ones its sender can supply in a configuration. -/
def Instr.wf (c : Config) : Instr → Bool
  | .move q p | .fill q p | .cast q p | .pack q p | .unpack q p | .gather q p | .scatter q p | .scatterAdd q p
  | .contract q p | .linkput q p | .linkreduceSend q p | .linkreduceHome q p | .mcast q p
  | .fenceReadsRetire q p | .winnowRecordWrite q p | .completionArrival q p | .progressArrival q p
  | .busyRetry q p | .reduceBinUnavailable q p => posOk q p
  | .fenceFull q | .fenceReads q | .fenceNone q | .signal q | .await q | .tickwaitRelative q | .tickwaitAligned q
  | .link q | .nop q | .entryFetch q _ | .headWrite q | .headWriteResponse q _ | .queueStructureWriteTimeout q
  | .rtBudgetExhausted q => queueOk q
  | .createQueue | .destroyQueue | .setClass | .setRt | .loadCodebook | .invalidateEntries | .bindTally
  | .shootdownMap | .query | .adminCompletion | .tick | .tickInEdge | .internalTick | .tickSourceLost
  | .distributorClockRestart | .safeStateEntry | .recovery | .grangerRestart | .fwDigestCheck | .selfTestPass
  | .selfTestTimeout | .coldReset | .warmReset | .cribStatRecomputeDone | .freeze | .tapControllerReset => true
  | .loadCodebookDone _ r => decide (r.data.length ≤ 512)
  | .adminCommandFetch _ r => r.wf
  | .shootdownComplete n => decide (n < 33)
  | .adminIndexWriteResponse _ | .imageReadFailure _ => true
  | .adminQueueEnable p _ | .adminQueueDisable p | .admStrike p | .sigEoi p _ | .sigGlobalEnable p _ | .fltAck p _
  | .fltInject p _ | .engLatTolWrite p _ | .fwReuse p | .granInvAll p | .engTickCfgWrite p _ => portOk c p
  | .qStrike p q | .enable p q | .disable p q | .abort p q | .queueCounterWrite p q _ _ => portOk c p && queueOk q
  | .qElemCntRead p q n => portOk c p && queueOk q && sizeOk n
  | .indexBlockReadReturn q r => queueOk q && r.wf
  | .entryFetchReturn q pos r => posOk q pos && r.wf
  | .fetchTimeout q _ pos => posOk q pos
  | .push p q off data => portOk c p && queueOk q && decide (off < 512) && decide (data.length ≤ 256)
  | .partDispatch b | .bayClearDone b | .bayIdleEntry b | .bayNapEntry b | .bayDormantEntry b | .bayWake b
  | .bayWakeDone b | .bayWakeForWaitingPart b => decide (b < c.bays)
  | .bayFault b k x => decide (b < c.bays) && decide (1 ≤ k) && decide (k ≤ 3) && decide (x < 128)
  | .ownerMaskRise _ n | .coreMaskFall _ n | .vectorOffer n | .vectorTransfer n => coreOk n
  | .readResponse b t r => decide (b < c.bays) && decide (t < 8192) && r.wf
  | .writeResponse b t _ => decide (b < c.bays) && decide (t < 8192)
  | .fillBeat sl l k r => decide (sl < c.stackPorts) && decide (l < 2 ^ 31) && decide (k < 2) && r.wf
  | .translationRequest b va => decide (b < c.bays) && decide (va < 2 ^ 64)
  | .translationCompletion b n _ a sz _ _ => decide (b < c.bays) && decide (n < 32) && decide (a < 2 ^ 64) && decide (sz < 8)
  | .atsInvalidationRequest a l t => decide (a < 2 ^ 64) && decide (l < 64) && decide (t < 32)
  | .tallyArrive p t _ _ | .tallyRelease p t | .tallyLoad p t _ | .tallyPlainFire p t | .watchdogArm p t _
  | .talFaultClear p t => portOk c p && tallyOk t
  | .tallyWatchdogExpiry t => tallyOk t
  | .hstDoorbell p n _ _ => portOk c p && decide (n < 64)
  | .hostNotify n | .hostNotifyResponse n _ _ => decide (n < 64)
  | .signalSourceInput n _ => sourceOk n
  | .sigPendSet p n | .sigPendClr p n => portOk c p && sourceOk n
  | .fltSrcCfgWrite p n _ => portOk c p && decide (n < 64)
  | .grangerFault k _ => decide (1 ≤ k) && decide (k ≤ 3)
  | .eccCorrected k _ _ => decide (k < 3)
  | .eccUncorrectable k _ _ q pos => decide (k < 3) && posOk q pos
  | .linkEnable p n _ => portOk c p && decide (n < c.linkPorts)
  | .linkReset p n _ => portOk c p && decide (n < c.linkPorts)
  | .phyUpRise n | .helloTimer n | .transmitFlit n | .nakRepeatTimer n | .peerLost n => decide (n < c.linkPorts)
  | .receiveHello n f | .receiveIdle n f | .receiveNak n f | .receiveOpenPut n f | .receiveOpenReduce n f
  | .receiveData n f | .receiveResp n f | .receiveCancel n f => decide (n < c.linkPorts) && f.wf
  | .receiveBadFlit n _ raw => decide (n < c.linkPorts) && decide (raw.length = 256)
  | .receiveStreamComplete n x | .remoteTimeout n x _ => decide (n < c.linkPorts) && decide (x < 65536)
  | .creditStall n v => decide (n < c.linkPorts) && decide (v < 4)
  | .multicastDetach q pos i => posOk q pos && decide (i < 16)
  | .reduceBinIdleAbandon rid | .binResultWrite rid => decide (rid < 65536)
  | .fwLoad p image => portOk c p && decide (image.length ≤ 1048576)
  | .selfTestFail k b => (k == 0x10 || k == 0x11) && decide (b < c.bays)
  | .debugRead sp a | .debugWrite sp a _ | .debugReadAdvance sp a => decide (sp < 16) && decide (a < 2 ^ 56)
  | .stackDecodeWrite p w _ => portOk c p && decide (w < 3)
  | .cribWrite p o n _ => portOk c p && decide (o < 524288) && sizeOk n
  | .halfWrite64 p o _ | .lowHalfReadCapture p o => portOk c p && offOk o
  | .rcCounterRead p o n | .registerWrite p o n _ => portOk c p && offOk o && sizeOk n

end Sys2Proof
end

