-- ==== Sys2Proof/Safety.lean ====
section
/-! DEFINITION. Safety.lean: what counts as a safe run, in the terms the statements use. -/
namespace Sys2Proof.Machine

/-- An outcome is safe when the machine goes on: no fault, no refusal. -/
def goesOn (o : Host.Outcome State Fault Refusal) : Bool :=
  match o with
  | .next _ => true
  | .fault _ => false
  | .refused _ => false

/-- The parts of a state that moving data, counting arrivals and recording faults leave alone. -/
structure Still where
  cfg : Config
  pending : List Instr
  clk : Clk
  tick : Tick
  adm : Adm
  crib : Crib
  dbg : Debug
  cs : Cs
  masks : Masks
  eng : EngState × Memory × Word × BitVec 16 × Nat
  stk : DWord × DWord × Nat
  lnk : BitVec 16 × BitVec 16 × BitVec 16 × Nat × BitVec 16
  flt : Tbl Word × BitVec 16 × Bool × List (Nat × Word)
  falls : List (Nat × Nat)
  start : Core

/-- Those parts of a state. -/
def State.still (s : State) : Still :=
  { cfg := s.cfg, pending := s.pending, clk := s.clk, tick := s.tick, adm := s.adm, crib := s.crib, dbg := s.dbg, cs := s.cs
    masks := s.masks
    eng := (s.eng.state, s.eng.gmem, s.eng.latTol, s.eng.fetchTimeout, s.eng.since)
    stk := (s.gran.stkBase, s.gran.stkSize, s.gran.stkIlv)
    lnk := (s.lnk.self, s.lnk.timeout, s.lnk.mcStall, s.lnk.binLimit, s.lnk.binIdle)
    flt := (s.flt.cfg, s.flt.quietCfg, s.flt.testMode, s.flt.writes)
    falls := s.falls
    start := s.start }

/-- A control-space write of a port reaches the register at an offset: the block's clocks run (R427), and the self-test does not
shut the register to that port (R439). -/
abbrev Reaches (s : State) (port off : Nat) : Prop := s.runs = true ∧ testShut s port off = false ∧ csOpen s port = true

/-- Between s and u, entry x of queue q retires (R301, R302): its place holds a retired entry or none; the entries before and behind
it keep their places and their progress until the head has passed them; at the head, h moves past it and a head write is due; where h
stands still, so does the head; of the other queues nothing changes, and of this one what is named here. -/
structure EntryRetires (s u : State) (q : Nat) (x : Slot) : Prop where
  gone : ∀ z, (u.getQ q).slotAt x.pos = some z → z.st = .retired
  others : ∀ z ∈ (u.getQ q).win, z.pos ≠ x.pos → ∃ y ∈ (s.getQ q).win, (y.pos, y.raw, y.addr, y.st) = (z.pos, z.raw, z.addr, z.st)
  head : ∀ r, (s.getQ q).win = x :: r → x.pos = (s.getQ q).h → ((x :: r).map (·.pos)).Nodup → (∀ z ∈ r, z.st ≠ .retired) →
    (u.getQ q).h = (x.pos + 1) % (2 * 2 ^ (s.getQ q).k) ∧ (u.getQ q).headAddr = (s.getQ q).follow x ∧ (u.getQ q).headDue.isSome = true
    ∧ (u.getQ q).headAt = some s.clk.gclk ∧ (u.getQ q).pub = true
    ∧ (u.getQ q).win.map (fun z => (z.pos, z.raw, z.st)) = r.map (fun z => (z.pos, z.raw, z.st))
  behind : ∀ z r, (s.getQ q).win = z :: r → ((z.st ≠ .retired ∧ z.pos ≠ x.pos) ∨ z.pos ≠ (s.getQ q).h) →
    (u.getQ q).h = (s.getQ q).h ∧ (u.getQ q).headAddr = (s.getQ q).headAddr ∧ (u.getQ q).headAt = (s.getQ q).headAt
  fetch : (u.getQ q).f = (s.getQ q).f ∧ (u.getQ q).p = (s.getQ q).p ∧ (u.getQ q).fetches = (s.getQ q).fetches
    ∧ (u.getQ q).refetch = (s.getQ q).refetch
  state : (u.getQ q).state = (s.getQ q).state ∨ ((s.getQ q).state = .draining ∧ (u.getQ q).state = .disabled)
  queues : ∀ k, k ≠ q → u.getQ k = s.getQ k

/-- The instruction at an entry has landed every read of a stage, and none of its parts was cut off. -/
structure Ready (s : State) (q pos : Nat) (o : Op) (st : Stage) (f : Flight) : Prop where
  runs : s.runs = true
  awake : s.eng.state ≠ .safe
  ids : (s.flights.map (·.id)).Nodup
  found : s.flightAt q pos = some f
  op : opOf f.raw = some o
  stage : f.stage = st
  parts : f.parts ≠ []
  live : ∀ p ∈ f.parts, p.cut = false ∧ p.ctx ≠ some 128
  whole : f.cut = false
  todo : f.todo = []
  wtodo : f.wtodo = []
  reads : ∀ r ∈ s.reads, r.flight ≠ f.id

/-- Whether the bytes that an instruction writes overlap those it reads, its side stream or its record (R70, R117, R137). -/
def clashes (reads scales record : List (Nat × Nat)) (ws : List WrReq) : Bool :=
  let dst := wrRanges (ws.filter (·.side == .dest))
  let side := wrRanges (ws.filter (·.side == .scale))
  rangesMeet dst (reads ++ scales ++ side) || rangesMeet side (reads ++ record)

/-- In u, instruction f of s has its results: its counts stand, and the writes `ws` wait to be issued, as they are when nothing
clashes, and otherwise with the same addresses and lengths (R70). -/
def Produces (u s : State) (f : Flight) (m : Made) (ws : List WrReq) (clash : Bool) : Prop :=
  ∃ t l, u = pump (t.setF { f with stage := .writing, wtodo := l, land := [], elem := m.elem, clip := m.clip
                                   degen := m.degen, nonfin := m.nonfin, sound := m.sound }) f.id
    ∧ { t with free := s.free } = s
    ∧ l.map (fun w => (w.side, w.part, w.elem, w.va, w.data.length)) = ws.map (fun w => (w.side, w.part, w.elem, w.va, w.data.length))
    ∧ (clash = false → t = s ∧ l = ws)

/-- A good virtual-channel flit that a port in UP takes in order (R183 to R185), outside the safe state. -/
structure InOrder (s : State) (n : Nat) (f : Flit) : Prop where
  runs : s.runs = true
  awake : s.eng.state ≠ .safe
  port : n < s.cfg.linkPorts
  good : flitBad s n f = none
  up : (s.getP n).state = .up
  flag : f.up = true
  seq : f.seq = ((s.getP n).ack + 1) % 4096

/-- The port after it has taken such a flit, before the flit is handed on: it has heard it, and acks it. -/
def acked (s : State) (n : Nat) (f : Flit) : State :=
  (hear s n f).modP n fun p => ({ p with ack := f.seq, recover := false, nakCnt := 0 } : Port).noteOpen f

end Sys2Proof.Machine
end

