-- ==== Sys2Proof/Certificates/Slice0/Obligations.lean ====
section
/-! DEFINITION. Obligations.lean: the statements for the provers. -/
open Sys2Proof Sys2Proof.Machine

/-! ### Tallies and host channels (10) -/

/-- R352, R353: arrivals written to TAL_ARRIVE are counted at the end of their GCLK, with the others of their kind, in the order normal,
faulted, abandoned: the count keeps what exceeds whole rounds, the fire count advances by the rounds, the first faulted or abandoned arrival
marks the tally with the round it enters, the watchdog is armed while a round is begun; of an unbound tally they are added to
TAL_STRAY_CNT. Completes: tallyArrive. -/
def Claims.TallyArrivals : Prop :=
  (∀ (s : State) (port t : Nat) (kind : BitVec 2) (count : BitVec 16),
    Reaches s port (tReg t 0x14) → kind ≠ 3#2 → count ≠ 0#16 →
    ∃ u, exec (.tallyArrive port t kind count) s = .next u
      ∧ u.tal.todo.getD {} t = (let x := s.tal.todo.getD {} t
          { x with
            normal := x.normal + if kind = 0#2 then count.toNat else 0
            faulted := x.faulted + if kind = 1#2 then count.toNat else 0
            abandoned := x.abandoned + if kind = 2#2 then count.toNat else 0 })
      ∧ (∀ k, k ≠ t → u.tal.todo.getD {} k = s.tal.todo.getD {} k)
      ∧ { u with tal.todo := s.tal.todo } = noteWrite s port (tReg t 0x14))
  ∧ (∀ (s : State) (t n m k : Nat), 0 < n + m + k →
    (let u := talStep s t { normal := n, faulted := m, abandoned := k }
     ((s.getT t).target ≠ 0 →
        (let y := s.getT t
         let sum := y.count + (n + m + k)
         u.getT t = { y with
           count := sum % y.target
           fire := (y.fire + sum / y.target) % 65536
           fault := y.fault || decide (0 < m + k)
           epoch := if y.fault = false ∧ 0 < m + k then (y.fire + (if n = 0 then 0 else (y.count + n) / y.target) + 1) % 65536 else y.epoch
           abandon := if 0 < k then min (y.abandon + k) 0xFFF else y.abandon
           idle := 0
           armed := decide (0 < sum % y.target) })
        ∧ (∀ j, j ≠ t → u.getT j = s.getT j)
        ∧ u.tal.stray = s.tal.stray ∧ u.tal.todo = s.tal.todo
        ∧ { u with tal := s.tal, hst := s.hst, sig := s.sig } = s)
     ∧ ((s.getT t).target = 0 → u.tal.stray = s.tal.stray + (n + m + k) ∧ (∀ j, u.getT j = s.getT j)
        ∧ { u with tal.stray := s.tal.stray, tal.tally := s.tal.tally } = s)))

/-- R353, R357, R365: firing a tally begins a pulse on its wake wires, or goes on with the one in progress (or marks the wires while the
outputs are held, R377), and makes pending the host channels that were valid and named it when the GCLK began; arrivals that complete no
round do neither. -/
def Claims.TallyFireOutputs : Prop :=
  ∀ (s : State) (t n m k : Nat), (s.getT t).target ≠ 0 →
    (let u := talStep s t { normal := n, faulted := m, abandoned := k }
     let z := s.start.tal.tally.getD {} t
     ((s.getT t).count + (n + m + k) < (s.getT t).target → u.tal.wire = s.tal.wire ∧ u.hst = s.hst ∧ u.sig = s.sig)
      ∧ (0 < n + m + k → (s.getT t).target ≤ (s.getT t).count + (n + m + k) →
          (∀ w, (({ valid := true, wire := w } : Wake) ∈ [(s.getT t).wake0, (s.getT t).wake1, (s.getT t).wake2, (s.getT t).wake3]) →
            u.tal.wire.getD {} w = (if s.eng.state = .safe then { s.tal.wire.getD {} w with marked := true }
              else { s.tal.wire.getD {} w with
                firedAt := some s.clk.gclk
                since := match (s.tal.wire.getD {} w).firedAt with
                  | some a => if s.clk.gclk ≤ a + 2 then (s.tal.wire.getD {} w).since else s.clk.gclk
                  | none => s.clk.gclk }))
          ∧ (∀ c h, (c, h) ∈ s.hst → s.cfg.hostSignal = true → (s.start.hst.getD {} c).valid = true → (s.start.hst.getD {} c).tally = t →
              (c, { h with pending := true }) ∈ u.hst)
          ∧ (z.sigEn = true → srcIsPulse z.sigSrc = true → (u.getS z.sigSrc).rise = true)
          ∧ (z.sigEn = false → u.sig = s.sig)))

/-- R357, R377: a wake wire is high from the GCLK after a firing to the second after the last firing of the pulse, and low while the
outputs are held. -/
def Claims.WireLevels : Prop :=
  ∀ (s : State) (n : Nat), s.runs = true →
    (s.eng.state = .safe → wireLevel s n = false)
    ∧ ((s.tal.wire.getD {} n).firedAt = none → wireLevel s n = false)
    ∧ (∀ a, s.eng.state ≠ .safe → (s.tal.wire.getD {} n).firedAt = some a →
        (wireLevel s n = true ↔ (s.tal.wire.getD {} n).since < s.clk.gclk ∧ s.clk.gclk ≤ a + 2))

/-- Arrivals at tallies: what they count (R352, R353), what a firing tally does (R357, R365), and the wires' levels (R357, R377). -/
def Obligations.TallyArrivalsAndOutputs : Prop := Claims.TallyArrivals ∧ Claims.TallyFireOutputs ∧ Claims.WireLevels

/-- R353, R363: a TAL_FORCE acts at the end of its GCLK, on a bound tally whose round is incomplete. Release counts the missing arrivals as
abandoned and disarms; plain fire counts them as normal; load sets the count, to target − 1 at most, with the idle count 0 and the watchdog
armed by a count above 0, and neither fires nor changes fault. Completes: tallyRelease, tallyLoad, tallyPlainFire. -/
def Claims.TallyForce : Prop :=
  (∀ (s : State) (port t : Nat) (value : BitVec 20), Reaches s port (tReg t 0x18) →
    (let noted (op v : Nat) : State :=
       let x := s.tal.todo.getD {} t
       { noteWrite s port (tReg t 0x18) with tal.todo := s.tal.todo.put t { x with force := x.force ++ [(op, v)] } }
     exec (.tallyRelease port t) s = .next (noted 1 0)
     ∧ exec (.tallyLoad port t value) s = .next (noted 2 value.toNat)
     ∧ exec (.tallyPlainFire port t) s = .next (noted 3 0)))
  ∧ (∀ (s : State) (t v : Nat), (s.getT t).target ≠ 0 → (s.getT t).count < (s.getT t).target →
    (let u := talStep s t { force := [(1, 0)] }
     u.getT t = { s.getT t with
          count := 0, fire := ((s.getT t).fire + 1) % 65536, fault := true, idle := 0, armed := false
          epoch := if (s.getT t).fault then (s.getT t).epoch else ((s.getT t).fire + 1) % 65536
          abandon := min ((s.getT t).abandon + ((s.getT t).target - (s.getT t).count)) 0xFFF }
        ∧ (∀ k, k ≠ t → u.getT k = s.getT k)
        ∧ { u with tal := s.tal, hst := s.hst, sig := s.sig } = s)
    ∧ (let u := talStep s t { force := [(3, 0)] }
       u.getT t = { s.getT t with count := 0, fire := ((s.getT t).fire + 1) % 65536, idle := 0, armed := false }
        ∧ (∀ k, k ≠ t → u.getT k = s.getT k)
        ∧ { u with tal := s.tal, hst := s.hst, sig := s.sig } = s)
    ∧ (let u := talStep s t { force := [(2, v)] }
       u.getT t = { s.getT t with
          count := min v ((s.getT t).target - 1), idle := 0
          armed := decide (0 < min v ((s.getT t).target - 1)) }
        ∧ (∀ k, k ≠ t → u.getT k = s.getT k)
        ∧ { u with tal.tally := s.tal.tally } = s))

/-- R363: a TAL_FORCE to an unbound tally has no effect. -/
def Claims.TallyForceUnbound : Prop :=
  ∀ (s : State) (t : Nat) (ops : List (Nat × Nat)), (s.getT t).target = 0 →
    (∀ k, (talStep s t { force := ops }).getT k = s.getT k)
    ∧ { talStep s t { force := ops } with tal.tally := s.tal.tally } = s

/-- R353, R354, R361, R362: a write of wd_arm sets the RW fields of TAL_CFG and, at the end of its GCLK, arms a bound tally with its idle
count 0; a W1C of fault clears fault, epoch and abandon, but for what this GCLK's arrivals set (R17); an armed, bound tally whose idle count
the last tick found at its watchdog, and which no arrival reaches in this GCLK, releases, is disarmed, and one tally-watchdog fault (source
7) is recorded with the count it found. Completes: watchdogArm, talFaultClear, tallyWatchdogExpiry. -/
def Claims.TallyWatchdog : Prop :=
  (∀ (s : State) (port t : Nat) (value : Word),
    (let x := s.tal.todo.getD {} t
     (Reaches s port (tReg t 0xC) → value.getLsbD 31 = true →
      ∃ u, exec (.watchdogArm port t value) s = .next u ∧
        u.getT t = { s.getT t with
          sigSrc := value.toNat % 512, sigEn := value.getLsbD 16 && decide (128 ≤ value.toNat % 512) }
        ∧ (∀ k, k ≠ t → u.getT k = s.getT k) ∧ u.tal.todo = s.tal.todo.put t { x with arm := true }
        ∧ { u with tal.tally := s.tal.tally, tal.todo := s.tal.todo } = noteWrite s port (tReg t 0xC))
     ∧ (Reaches s port (tReg t 0x10) →
        exec (.talFaultClear port t) s = .next { noteWrite s port (tReg t 0x10) with tal.todo := s.tal.todo.put t { x with clear := true } })
     ∧ (s.runs = true → (s.getT t).target ≠ 0 → (s.getT t).armed = true → (s.getT t).late = true → (s.getT t).idle ≠ 0 →
        exec (.tallyWatchdogExpiry t) s = .next { s with tal.todo := s.tal.todo.put t { x with expire := true } })))
  ∧ (∀ (s : State) (t n : Nat),
    (let y := s.getT t
     ((talStep s t { arm := true }).getT t = (if y.target = 0 then y else { y with armed := true, idle := 0 }))
     ∧ ((talStep s t { clear := true }).getT t = { y with fault := false, epoch := 0, abandon := 0 })
     ∧ (y.target ≠ 0 → 0 < n → y.count + n < y.target →
         (talStep s t { clear := true, faulted := n }).getT t
           = { y with count := y.count + n, fire := y.fire % 65536, fault := true, epoch := (y.fire + 1) % 65536, abandon := 0
                      idle := 0, armed := true })
     ∧ (y.target ≠ 0 → 0 < n → talStep s t { normal := n, expire := true } = talStep s t { normal := n })
     ∧ (y.target ≠ 0 → y.armed = true → y.late = true → y.idle ≠ 0 → y.count < y.target →
      ∃ v, talStep s t { expire := true } = pulse (raise v { src := 7, unit := t, detail := y.count }) 6 ∧
        v.getT t = { y with
          count := 0, fire := (y.fire + 1) % 65536, fault := true, idle := 0, armed := false
          epoch := if y.fault then y.epoch else (y.fire + 1) % 65536
          abandon := min (y.abandon + (y.target - y.count)) 0xFFF }
        ∧ (∀ k, k ≠ t → v.getT k = s.getT k)
        ∧ { v with tal := s.tal, hst := s.hst, sig := s.sig } = s)))

/-- TAL_FORCE of bound and unbound tallies (R363), arming, clearing and expiring (R354, R361, R362). -/
def Obligations.TallyForceAndWatchdog : Prop := Claims.TallyForce ∧ Claims.TallyForceUnbound ∧ Claims.TallyWatchdog

/-- R40, R364: a doorbell of a valid channel delivers its count and kind as arrivals of the channel's tally, and nothing for a count
of 0 or kind 3; with valid = 0 the count is added to TAL_STRAY_CNT; with HOST_SIGNAL = 0 the write is ignored. Completes: hstDoorbell. -/
def Claims.HostDoorbell : Prop :=
  ∀ (s : State) (port c : Nat) (kind : BitVec 2) (count : BitVec 16), Reaches s port (hReg c 0x10) →
    (s.cfg.hostSignal = true → (s.getH c).valid = true → kind ≠ 3#2 → count ≠ 0#16 →
      ∃ u, exec (.hstDoorbell port c kind count) s = .next u
        ∧ u.tal.todo.getD {} (s.getH c).tally = (let x := s.tal.todo.getD {} (s.getH c).tally
            { x with
              normal := x.normal + if kind = 0#2 then count.toNat else 0
              faulted := x.faulted + if kind = 1#2 then count.toNat else 0
              abandoned := x.abandoned + if kind = 2#2 then count.toNat else 0 })
        ∧ (∀ k, k ≠ (s.getH c).tally → u.tal.todo.getD {} k = s.tal.todo.getD {} k)
        ∧ { u with tal.todo := s.tal.todo } = noteWrite s port (hReg c 0x10))
    ∧ (s.cfg.hostSignal = true → (s.getH c).valid = true → (kind = 3#2 ∨ count = 0#16) →
      exec (.hstDoorbell port c kind count) s = .next (noteWrite s port (hReg c 0x10)))
    ∧ (s.cfg.hostSignal = true → (s.getH c).valid = false →
      exec (.hstDoorbell port c kind count) s
        = .next { noteWrite s port (hReg c 0x10) with tal.stray := s.tal.stray + count.toNat })
    ∧ (s.cfg.hostSignal = false → exec (.hstDoorbell port c kind count) s = .next (noteWrite s port (hReg c 0x10)))

/-- R406, R413, R414: a front-end request goes out in pieces of up to 256 bytes, each served by the port that its address decodes to, under
a request number that the port has free, and changes nothing else; it finds room while no port has 16 outstanding. Its answer takes away the
oldest request of its kind with all its pieces. That its time limit is the one of FETCH_TIMEOUT at the issue is the model's reading (log
18). -/
def Claims.FrontEndRequests : Prop :=
  ∀ (s : State) (use : FeUse) (we : Bool) (addr len : Nat),
    (∀ t, feTry s use we addr len = some t → { t with fe := s.fe } = s ∧
      ∃ l, t.fe = s.fe ++ l ∧ (l.map (·.len)).sum = len
        ∧ ∀ x ∈ l, x.use = use ∧ x.we = we ∧ x.gone = false ∧ x.len ≤ 256 ∧ x.tag < 16
          ∧ x.due = s.clk.gclk + 700 * s.eng.fetchTimeout.toNat ∧ x.stk = decodePa s x.addr
          ∧ ∀ y ∈ t.fe, y.port = x.port → y.tag = x.tag → y = x)
    ∧ ((∀ n, (s.fe.filter fun r => r.port == n).length + (fePieces s addr len).length ≤ 16) → ∃ t, feTry s use we addr len = some t)
    ∧ (∀ l r m n, s.fe = l ++ r :: m ++ n → (∀ x ∈ l, ¬ (x.use = use ∧ x.gone = false)) → r.use = use → r.gone = false →
        (∀ x ∈ m, x.more = true) → (∀ x, n.head? = some x → x.more = false) → feDone s use = { s with fe := l ++ n })

/-- R365, R366: a pending channel with nothing outstanding, now and as the GCLK began, issues one 8-byte write of the tally's fire count,
the tally number and the cookie, once the front end has room for it, and is no longer pending; an OK answer ends it; an error, or no answer
in time, counts in err_cnt and records one host-notify fault (source 8). Completes: hostNotify, hostNotifyResponse. -/
def Claims.HostNotification : Prop :=
  ∀ (s : State) (c : Nat), s.runs = true →
    (∀ t, (s.getH c).pending = true → (s.getH c).wr = none → (s.start.hst.getD {} c).wr = none → s.eng.state ≠ .safe →
        feTry s (.host c) true ((s.getH c).addr.toNat / 8 * 8) 8 = some t →
      ∃ u, exec (.hostNotify c) s = .next u ∧
        u.getH c = { s.getH c with
          pending := false
          wr := some { addr := (s.getH c).addr.toNat / 8 * 8
                       data := leBytes (s.getT (s.getH c).tally).fire 2 ++ leBytes (s.getH c).tally 2 ++ leBytes (s.getH c).cookie.toNat 4
                       due := s.clk.gclk + 700 * s.eng.fetchTimeout.toNat } }
        ∧ (∀ k, k ≠ c → u.getH k = s.getH k) ∧ { u with hst := s.hst } = t)
    ∧ (∀ w, (s.getH c).wr = some w →
        (∃ u, exec (.hostNotifyResponse c false 0#2) s = .next u ∧ u.getH c = { s.getH c with wr := none }
          ∧ (∀ k, k ≠ c → u.getH k = s.getH k) ∧ { u with hst := s.hst } = feDone s (.host c))
        ∧ (∀ (timeout : Bool) (sts : BitVec 2), (timeout = false ∧ sts ≠ 0#2 ∨ timeout = true ∧ w.due ≤ s.clk.gclk) →
            ∃ u v, exec (.hostNotifyResponse c timeout sts) s = .next u
              ∧ u = pulse (raise v { src := 8, unit := c, detail := w.addr }) 7
              ∧ v.getH c = { s.getH c with wr := none, errCnt := (s.getH c).errCnt + 1 }
              ∧ (∀ k, k ≠ c → v.getH k = s.getH k) ∧ { v with hst := s.hst } = feDone s (.host c)))

/-- Doorbells (R40, R364) and notifications (R365, R366) of the host channels, and the front-end requests that carry them (R413). -/
def Obligations.HostChannels : Prop := Claims.HostDoorbell ∧ Claims.FrontEndRequests ∧ Claims.HostNotification

/-! ### Interrupt sources (10) -/

/-- R367, R368, R375, R376: an input's change, of a level the one it has had in the GCLK before, is sensed while the distributor's clock
runs, and latched while it is gated. A pulse that did not come in this GCLK counts as a rise under senses 0, 1 and 3; a rise of a level
input makes an enabled source pending under 0 (unless it is active), 1 and 3, a fall under 2 and 3; under 0 a fall ends pending, unless
SIG_PEND.set made it, and withdraws the offer. Completes: signalSourceInput. -/
def Claims.SignalInput : Prop :=
  ∀ (s : State) (n : Nat), s.runs = true →
    (srcIsPulse n = true → s.sig.clockOn = true → (s.getS n).rise = true → (s.getS n).pulseAt ≠ some s.clk.gclk →
      ∃ u, exec (.signalSourceInput n true) s = .next u ∧
        u.getS n = { s.getS n with
          rise := false
          sensed := (s.getS n).sensed || ((s.getS n).cfg.getLsbD 31 && (s.getS n).cfg.toNat / 2 ^ 29 % 4 != 2)
          pending := (s.getS n).pending || ((s.getS n).cfg.getLsbD 31 && (s.getS n).cfg.toNat / 2 ^ 29 % 4 != 2) }
        ∧ (∀ k, k ≠ n → u.getS k = s.getS k) ∧ { u with sig.src := s.sig.src } = s)
    ∧ (srcIsPulse n = false → srcIsLevel s n = true → n ∈ s.sig.prev → (s.getS n).input = false → s.sig.clockOn = true →
      ∃ u, exec (.signalSourceInput n true) s = .next u ∧
        u.getS n = { s.getS n with
          input := true
          sensed := (s.getS n).sensed || ((s.getS n).cfg.getLsbD 31 && (s.getS n).cfg.toNat / 2 ^ 29 % 4 % 2 == 1)
          pending := (s.getS n).pending || ((s.getS n).cfg.getLsbD 31 &&
            (if (s.getS n).cfg.toNat / 2 ^ 29 % 4 = 0 then !(s.getS n).active else (s.getS n).cfg.toNat / 2 ^ 29 % 4 != 2)) }
        ∧ (∀ k, k ≠ n → u.getS k = s.getS k) ∧ { u with sig.src := s.sig.src, sig.offer := s.sig.offer } = s)
    ∧ (srcIsPulse n = false → srcIsLevel s n = true → n ∉ s.sig.prev → (s.getS n).input = true → s.sig.clockOn = true →
      ∃ u, exec (.signalSourceInput n false) s = .next u ∧
        u.getS n = { s.getS n with
          input := false
          sensed := (s.getS n).sensed || ((s.getS n).cfg.getLsbD 31 && decide (2 ≤ (s.getS n).cfg.toNat / 2 ^ 29 % 4))
          pending := if (s.getS n).cfg.toNat / 2 ^ 29 % 4 = 0 then (s.getS n).pending && (s.getS n).setp
            else (s.getS n).pending || ((s.getS n).cfg.getLsbD 31 && decide (2 ≤ (s.getS n).cfg.toNat / 2 ^ 29 % 4)) }
        ∧ ((u.getS n).pending = false → ∀ c, u.sig.offer.getD none c ≠ some n)
        ∧ (∀ k, k ≠ n → u.getS k = s.getS k) ∧ { u with sig.src := s.sig.src, sig.offer := s.sig.offer } = s)
    ∧ (∀ v : Bool, srcIsPulse n = false → srcIsLevel s n = true → (n ∈ s.sig.prev ↔ v = true) → s.sig.clockOn = false →
        (if v then (s.getS n).rise = false ∧ ((s.getS n).input = false ∨ (s.getS n).fall = true)
          else (s.getS n).fall = false ∧ ((s.getS n).input = true ∨ (s.getS n).rise = true)) →
      ∃ u, exec (.signalSourceInput n v) s = .next u ∧
        u.getS n = { s.getS n with rise := (s.getS n).rise || v, fall := (s.getS n).fall || !v }
        ∧ (∀ k, k ≠ n → u.getS k = s.getS k) ∧ { u with sig.src := s.sig.src } = s)

/-- R376: when some change is latched, the gated clock restarts and each latched change is sensed as it would have been. Completes:
distributorClockRestart. -/
def Claims.DistributorRestart : Prop :=
  ∀ (s : State), s.runs = true → s.sig.clockOn = false → (∃ n x, (n, x) ∈ s.sig.src ∧ (x.rise = true ∨ x.fall = true)) →
    ∃ u, exec .distributorClockRestart s = .next u ∧ u.sig.clockOn = true
      ∧ (∀ n, (s.getS n).rise = false → (s.getS n).fall = false → u.getS n = s.getS n)
      ∧ (∀ n, srcIsPulse n = true → (s.getS n).rise = true →
          u.getS n = { s.getS n with
            rise := false
            sensed := (s.getS n).sensed || ((s.getS n).cfg.getLsbD 31 && (s.getS n).cfg.toNat / 2 ^ 29 % 4 != 2)
            pending := (s.getS n).pending || ((s.getS n).cfg.getLsbD 31 && (s.getS n).cfg.toNat / 2 ^ 29 % 4 != 2) })
      ∧ (∀ n, srcIsPulse n = false → (s.getS n).rise = true → (s.getS n).fall = false →
          u.getS n = { s.getS n with
            rise := false, input := true
            sensed := (s.getS n).sensed || ((s.getS n).cfg.getLsbD 31 && (s.getS n).cfg.toNat / 2 ^ 29 % 4 % 2 == 1)
            pending := (s.getS n).pending || ((s.getS n).cfg.getLsbD 31 &&
              (if (s.getS n).cfg.toNat / 2 ^ 29 % 4 = 0 then !(s.getS n).active else (s.getS n).cfg.toNat / 2 ^ 29 % 4 != 2)) })
      ∧ (∀ n, srcIsPulse n = false → (s.getS n).rise = false → (s.getS n).fall = true →
          u.getS n = { s.getS n with
            fall := false, input := false
            sensed := (s.getS n).sensed || ((s.getS n).cfg.getLsbD 31 && decide (2 ≤ (s.getS n).cfg.toNat / 2 ^ 29 % 4))
            pending := if (s.getS n).cfg.toNat / 2 ^ 29 % 4 = 0 then (s.getS n).pending && (s.getS n).setp
              else (s.getS n).pending || ((s.getS n).cfg.getLsbD 31 && decide (2 ≤ (s.getS n).cfg.toNat / 2 ^ 29 % 4)) })
      ∧ { u with sig.src := s.sig.src, sig.clockOn := false } = s

/-- How interrupt sources sense their inputs, with the distributor's clock running and gated (R368, R376). -/
def Obligations.SourceSensing : Prop := Claims.SignalInput ∧ Claims.DistributorRestart

/-- R371, R372: a core is offered, of the sources that as the GCLK began were pending, enabled, not active and routed to it while delivery
was on and the interrupt outputs were not held, the one of greatest prio, and among equal prio of greatest number, while it is so still;
none where there is none. A source is on offer at one core. Completes: vectorOffer. -/
def Claims.VectorOffer : Prop :=
  ∀ (s : State) (core : Nat), s.runs = true → s.sig.clockOn = true →
    ∃ u, exec (.vectorOffer core) s = .next u ∧
      (let ready (t : State) (m : Nat) : Prop := (t.getS m).pending = true ∧ (t.getS m).cfg.getLsbD 31 = true ∧ (t.getS m).active = false
         ∧ (t.getS m).fresh = false ∧ srcRoute t m = some core ∧ t.sig.enable = true ∧ t.eng.state ≠ .safe
       let best (n : Nat) : Prop := ready s.atStart n ∧ ∀ m, ready s.atStart m →
         (s.atStart.getS m).prio < (s.atStart.getS n).prio ∨ ((s.atStart.getS m).prio = (s.atStart.getS n).prio ∧ m ≤ n)
       (∀ n, best n → ready s n → u.sig.offer.getD none core = some n
          ∧ ∀ c, c ≠ core → u.sig.offer.getD none c = (if s.sig.offer.getD none c = some n then none else s.sig.offer.getD none c))
       ∧ ((∀ n, best n → ¬ ready s n) → u.sig.offer.getD none core = none
          ∧ ∀ c, c ≠ core → u.sig.offer.getD none c = s.sig.offer.getD none c))
      ∧ { u with sig.offer := s.sig.offer } = s

/-- R369, R370, R375: the vector that transfers makes its source active at the core, ends its pending state, unless an edge is
sensed in the same GCLK, and leaves it on offer nowhere;
SIG_EOI of an active source makes it inactive from the next GCLK, and of one that is not active counts in SIG_STRAY_CNT. Completes:
vectorTransfer, sigEoi. -/
def Claims.VectorTransferAndEoi : Prop :=
  ∀ (s : State) (core port n : Nat) (value : Word),
    (s.runs = true → s.sig.offer.getD none core = some n → (s.getS n).active = false →
      ∃ u, exec (.vectorTransfer core) s = .next u ∧
        u.getS n = { s.getS n with active := true, core, pending := (s.getS n).sensed, setp := false }
        ∧ (∀ k, k ≠ n → u.getS k = s.getS k)
        ∧ (∀ c, u.sig.offer.getD none c = (if s.sig.offer.getD none c = some n then none else s.sig.offer.getD none c))
        ∧ { u with sig.src := s.sig.src, sig.offer := s.sig.offer } = s)
    ∧ (Reaches s port 0x20004 → n = value.toNat % 65536 → (s.getS n).active = true →
      ∃ u, exec (.sigEoi port value) s = .next u ∧ u.getS n = { s.getS n with eoi := true }
        ∧ (∀ k, k ≠ n → u.getS k = s.getS k) ∧ { u with sig.src := s.sig.src } = noteWrite s port 0x20004)
    ∧ (Reaches s port 0x20004 → (s.getS (value.toNat % 65536)).active = false →
      ∃ u, exec (.sigEoi port value) s = .next u ∧ u.sig.stray = s.sig.stray + 1
        ∧ { u with sig.stray := s.sig.stray } = noteWrite s port 0x20004)
    ∧ (∀ x : Src, (srcStep x).active = (x.active && !x.eoi) ∧ (srcStep x).eoi = false ∧ (srcStep x).fresh = (x.active && x.eoi)
        ∧ (x.pending = true → (srcStep x).pending = true)
        ∧ (x.cfg.getLsbD 31 = true → x.cfg.toNat / 2 ^ 29 % 4 = 0 → x.input = true → x.eoi = true → (srcStep x).pending = true))

/-- R368, R376, R377: SIG_PEND.set makes an enabled source pending until its transfer or a clear, with the distributor's clock running, and
does nothing to a source that is not enabled; SIG_PEND.clr ends pending and withdraws the offer; SIG_GLOBAL.enable takes its value, and 0
withdraws every offer. Completes: sigPendSet, sigPendClr, sigGlobalEnable. -/
def Claims.SignalControl : Prop :=
  ∀ (s : State) (port n : Nat) (value : Word), n < 33280 →
    (Reaches s port (sReg n 4) → (s.getS n).cfg.getLsbD 31 = true →
      ∃ u, exec (.sigPendSet port n) s = .next u ∧ (u.getS n).pending = true ∧ (u.getS n).setp = true ∧ u.sig.clockOn = true
        ∧ (∀ k, (s.sig.clockOn = true ∨ ((s.getS k).rise = false ∧ (s.getS k).fall = false)) →
            u.getS k = (if k = n then { s.getS n with pending := true, setp := true } else s.getS k))
        ∧ { u with sig.src := s.sig.src, sig.clockOn := s.sig.clockOn } = noteWrite s port (sReg n 4))
    ∧ (Reaches s port (sReg n 4) → (s.getS n).cfg.getLsbD 31 = false →
      exec (.sigPendSet port n) s = .next (noteWrite s port (sReg n 4)))
    ∧ (Reaches s port (sReg n 4) →
      ∃ u, exec (.sigPendClr port n) s = .next u ∧ u.getS n = { s.getS n with pending := false, setp := false }
        ∧ (∀ c, u.sig.offer.getD none c ≠ some n)
        ∧ (∀ k, k ≠ n → u.getS k = s.getS k)
        ∧ { u with sig.src := s.sig.src, sig.offer := s.sig.offer } = noteWrite s port (sReg n 4))
    ∧ (Reaches s port 0x20000 →
      ∃ u, exec (.sigGlobalEnable port value) s = .next u ∧ u.sig.enable = value.getLsbD 0
        ∧ (value.getLsbD 0 = false → ∀ c, u.sig.offer.getD none c = none)
        ∧ (value.getLsbD 0 = true → u.sig.offer = s.sig.offer)
        ∧ { u with sig.enable := s.sig.enable, sig.offer := s.sig.offer } = noteWrite s port 0x20000)

/-- Offers, transfers and ends of interrupt (R371 to R374), and the registers of the distributor (R368 to R370). -/
def Obligations.VectorsAndSignalRegisters : Prop := Claims.VectorOffer ∧ Claims.VectorTransferAndEoi ∧ Claims.SignalControl

/-! ### Faults (11) -/

/-- R381, R383: classify() of an event of source n at tick T, as the rule's pseudocode has it: counting in a window, at most one step
of escalation, and what a fault does to level, quiet, unack and t_open. -/
def Claims.EventClassification : Prop :=
  ∀ (f : FaultUnit) (T n : Nat),
    (let cfg := (fltCfg f n).toNat
     let k0 := cfg % 4
     let cnt := cfg / 256 % 256
     let opens := f.cnt.getD 0 n = 0 ∨ f.wstart.getD 0 n + cfg / 65536 % 65536 ≤ T
     let c := (if opens then 0 else f.cnt.getD 0 n) + 1
     let full := cnt ≠ 0 ∧ c = cnt
     let k1 := if full ∧ k0 < 2 then 2 else k0
     let esc := (k1 = 1 ∨ k1 = 2) ∧ f.unack.getD false k1 = true ∧ f.tOpen.getD 0 k1 + 1 < T
     let k := if esc then k1 + 1 else k1
     let r := classify f T n
     r.k = k ∧ (r.counted = true ↔ full ∧ k0 < 2) ∧ (r.esc = true ↔ esc)
     ∧ r.unit.cnt.getD 0 n = (if cnt = 0 then f.cnt.getD 0 n else if full then 0 else c)
     ∧ r.unit.wstart.getD 0 n = (if cnt ≠ 0 ∧ opens then T else f.wstart.getD 0 n)
     ∧ (k = 0 → r.unit.level = f.level ∧ r.unit.quiet = f.quiet ∧ r.unit.recDue = f.recDue ∧ r.unit.hits = f.hits ∧ r.unit.unack = f.unack ∧ r.unit.tOpen = f.tOpen)
     ∧ (1 ≤ k → r.unit.level = max f.level k ∧ r.unit.quiet = 0 ∧ r.unit.recDue = false ∧ r.unit.hits = k :: f.hits ∧ r.unit.unack.getD false k = true
         ∧ r.unit.tOpen.getD 0 k = (if f.unack.getD false k then f.tOpen.getD 0 k else T)
         ∧ ∀ j, j ≠ k → r.unit.unack.getD false j = f.unack.getD false j ∧ r.unit.tOpen.getD 0 j = f.tOpen.getD 0 j)
     ∧ (∀ j, j ≠ n → r.unit.cnt.getD 0 j = f.cnt.getD 0 j ∧ r.unit.wstart.getD 0 j = f.wstart.getD 0 j)
     ∧ r.unit.hist = f.hist ∧ r.unit.nextSeq = f.nextSeq ∧ r.unit.cfg = f.cfg)

/-- R380, R382, R388, Table 11.3: an event of a reserved source leaves the state; any other joins those of its GCLK, which are recorded at
its end by ascending source and unit. An event of a source whose hist is 1 is written as record number next_seq, in entry next_seq mod 32,
in the layout of the table, and source 1 is pulsed; the other entries stay. -/
def Claims.EventRecord : Prop :=
  ∀ (s : State) (e : Ev), ((e.src = 0 ∨ 0x1B < e.src) → raise s e = s ∧ record s e = s)
    ∧ (1 ≤ e.src → e.src ≤ 0x1B → raise s e = { s with flt.evs := s.flt.evs ++ [e] })
    ∧ (∃ l : List Ev, l.Perm s.flt.evs ∧ l.Pairwise (fun a b => a.src < b.src ∨ (a.src = b.src ∧ a.unit ≤ b.unit))
        ∧ recordAll s = { l.foldl record s with flt.evs := [] })
    ∧ (s.eng.state ≠ .test → classifyPass s = recordAll s)
    ∧ (1 ≤ e.src → e.src ≤ 0x1B → (fltCfg s.flt e.src).getLsbD 2 = true → e.sub < 256 → e.unit < 65536 → e.detail < 2 ^ 104 →
        (∀ x ∈ e.inst, x.1 < 65536 ∧ x.2 < 131072) → s.flt.nextSeq < 2 ^ 24 →
      (let c := classify s.flt s.tick.count.toNat e.src
       let r := ((record s e).flt.hist.getD 0#256 (s.flt.nextSeq % 32)).toNat
       r % 2 ^ 48 = s.tick.count.toNat % 2 ^ 48 ∧ r / 2 ^ 48 % 2 ^ 24 = s.flt.nextSeq ∧ r / 2 ^ 72 % 2 ^ 8 = e.src
       ∧ r / 2 ^ 80 % 2 ^ 2 = c.k ∧ r / 2 ^ 82 % 2 ^ 2 = (fltCfg s.flt e.src).toNat % 4
       ∧ r / 2 ^ 84 % 2 = (if c.counted then 1 else 0) ∧ r / 2 ^ 85 % 2 = (if c.esc then 1 else 0)
       ∧ r / 2 ^ 86 % 2 = (if e.injected then 1 else 0) ∧ r / 2 ^ 87 % 2 = (if e.inst.isSome then 1 else 0)
       ∧ r / 2 ^ 88 % 2 ^ 8 = e.sub ∧ r / 2 ^ 96 % 2 ^ 16 = e.unit
       ∧ (∀ x ∈ e.inst, r / 2 ^ 112 % 2 ^ 16 = x.1 ∧ r / 2 ^ 128 % 2 ^ 24 = x.2) ∧ r / 2 ^ 152 = e.detail
       ∧ (record s e).flt.nextSeq = (s.flt.nextSeq + 1) % 2 ^ 24 ∧ ((record s e).getS 1).rise = true
       ∧ ∀ j, j ≠ s.flt.nextSeq % 32 → (record s e).flt.hist.getD 0#256 j = s.flt.hist.getD 0#256 j))
    ∧ ((fltCfg s.flt e.src).getLsbD 2 = false → (record s e).flt.hist = s.flt.hist ∧ (record s e).flt.nextSeq = s.flt.nextSeq)

/-- R378, R390, R431: of an event recorded at class D, SERVICE enters the safe state in the next GCLK; an event of a lower class
leaves the engine alone. -/
def Claims.ClassDEntersSafe : Prop :=
  ∀ (s : State) (e : Ev), 1 ≤ e.src → e.src ≤ 0x1B →
    ((classify s.flt s.tick.count.toNat e.src).k = 3 → s.eng.state = .service → (record s e).flt.safeDue = true ∧ (record s e).eng = s.eng)
    ∧ ((classify s.flt s.tick.count.toNat e.src).k < 3 → (record s e).flt.safeDue = s.flt.safeDue ∧ (record s e).eng = s.eng)

/-- How an event of the fault unit is classed, counted, escalated and recorded (R379 to R384), and what class D does (R390). -/
def Obligations.EventsAndRecords : Prop := Claims.EventClassification ∧ Claims.EventRecord ∧ Claims.ClassDEntersSafe

/-- R384, R385, R399: the fault unit takes what a GCLK writes to FLT_ACK, FLT_SRC_CFG, FLT_QUIET and FLT_INJECT at the GCLK's end,
in order. FLT_ACK
clears unack of each class written 1 that this GCLK has not recorded, and nothing else; a FLT_SRC_CFG of a source takes its fields and
clears the source's count, and of a reserved source is ignored; FLT_INJECT raises an injected event in factory test mode only.
Completes: fltAck, fltInject, fltSrcCfgWrite. -/
def Obligations.FaultRegisters : Prop :=
  ∀ (s : State) (port src : Nat) (value : Word),
    (let later (off : Nat) : State := { noteWrite s port off with flt.writes := s.flt.writes ++ [(off, value)] }
     (Reaches s port 0x10004 → exec (.fltAck port value) s = .next (later 0x10004))
     ∧ (Reaches s port 0x10014 → exec (.fltInject port value) s
         = .next (if s.flt.testMode = true ∧ value.getLsbD 31 = true then later 0x10014 else noteWrite s port 0x10014))
     ∧ (Reaches s port (0x10100 + 4 * src) → 1 ≤ src → src ≤ 0x1B →
         exec (.fltSrcCfgWrite port src value) s = .next (later (0x10100 + 4 * src)))
     ∧ (Reaches s port (0x10100 + 4 * src) → (src = 0 ∨ 0x1B < src) →
         exec (.fltSrcCfgWrite port src value) s = .next (noteWrite s port (0x10100 + 4 * src))))
    ∧ (let t := s.flt.writes.foldl fltApply s
       s.flt.evs = [] → s.ticked = false → s.flt.recover = false →
         fltPass s = { t with flt.writes := [], flt.hits := [], flt.recover := false })
    ∧ (let u := fltApply s (0x10004, value)
       (∀ k, 1 ≤ k → k ≤ 3 → u.flt.unack.getD false k = (s.flt.unack.getD false k && !(value.getLsbD (k - 1) && !s.flt.hits.contains k)))
       ∧ { u with flt.unack := s.flt.unack } = s)
    ∧ fltApply s (0x1000C, value) = { s with flt.quietCfg := BitVec.ofNat 16 (max 1 (value.toNat % 65536)) }
    ∧ fltApply s (0x10014, value) = raise s { src := value.toNat / 2 ^ 16 % 256, unit := value.toNat % 65536, injected := true }
    ∧ (1 ≤ src → src ≤ 0x1B →
      (let u := fltApply s (0x10100 + 4 * src, value)
       fltCfg u.flt src = value &&& 0xFFFFFF07#32 ∧ u.flt.cnt.getD 0 src = 0
       ∧ (∀ j, j ≠ src → fltCfg u.flt j = fltCfg s.flt j ∧ u.flt.cnt.getD 0 j = s.flt.cnt.getD 0 j)
       ∧ { u with flt.cfg := s.flt.cfg, flt.cnt := s.flt.cnt } = s))

/-- R377, R390: in the GCLK after a class D record in SERVICE the engine is in SAFE: every offer is withdrawn, every bin is
abandoned, no OPEN waits at a port, no queue is ENABLED, and the admin queue and its command stand where they were. Completes:
safeStateEntry. -/
def Claims.SafeStateEntry : Prop :=
  ∀ (s : State), s.flt.safeDue = true → s.eng.state = .service →
    ∃ u, exec .safeStateEntry s = .next u ∧ u.eng = { s.eng with state := .safe } ∧ u.flt.safe = true ∧ u.flt.safeDue = false
      ∧ (∀ c, u.sig.offer.getD none c = none) ∧ u.lnk.bins = [] ∧ (∀ n, (u.getP n).held = [])
      ∧ (∀ q, (u.getQ q).state ≠ .enabled) ∧ { u.still with eng := s.still.eng } = s.still

/-- R382, R384, R394, R395: at the end of a GCLK with a recovery, when it is due while level is not 0, and in SAFE once every write accepted
has ended, level and safe become 0 and FLT_RECOVERY_CNT increments; a class keeps its unack and t_open (R387); from SAFE the engine is in
SERVICE again, each marked wire pulses from the GCLK after the release, and what waits goes on. A fault of the same GCLK prevents it.
Completes: recovery. -/
def Claims.Recovery : Prop :=
  (∀ (s : State), s.runs = true → s.flt.level ≠ 0 → exec .recovery s = .next { s with flt.recover := true })
  ∧ (∀ (s : State), s.flt.recover = true → s.flt.recDue = true → s.flt.level ≠ 0 → s.flt.writes = [] → s.ticked = false →
    (s.flt.evs = [] →
      (s.eng.state ≠ .safe →
        fltPass s = { s with
          flt.level := 0, flt.safe := false, flt.recDue := false, flt.recovCnt := s.flt.recovCnt + 1, flt.hits := [], flt.recover := false })
      ∧ (s.eng.state = .safe → writesEnded s = true →
        ∃ v, fltPass s = { pumpAll v with flt.hits := [], flt.recover := false } ∧ v.eng.state = .service
          ∧ (∀ w, v.tal.wire.getD {} w = (if (s.tal.wire.getD {} w).marked
              then { firedAt := some (s.clk.gclk + 1), since := s.clk.gclk + 1, marked := false }
              else s.tal.wire.getD {} w))
          ∧ { v with eng.state := .safe, tal.wire := s.tal.wire } = { s with
              flt.level := 0, flt.safe := false, flt.recDue := false, flt.recovCnt := s.flt.recovCnt + 1 })
      ∧ (s.eng.state = .safe → writesEnded s = false → fltPass s = { s with flt.hits := [], flt.recover := false }))
    ∧ (∀ e, s.flt.evs = [e] → 1 ≤ e.src → e.src ≤ 0x1B → s.eng.state ≠ .test → 1 ≤ (classify s.flt s.tick.count.toNat e.src).k →
        (fltPass s).flt.level = max s.flt.level (classify s.flt s.tick.count.toNat e.src).k ∧ (fltPass s).flt.recDue = false
        ∧ (fltPass s).eng.state = s.eng.state))

/-- The safe state is entered and left (R390, R394, R395). What the wait of R393 covers is the model's reading (log 21). -/
def Obligations.SafeStateAndRecovery : Prop := Claims.SafeStateEntry ∧ Claims.Recovery

/-- R396, R397: a bay fault masks the bay, abandons the bins with a slice on it, leaves every queue's state, and records source 0x10
with its cause and context; once every write of the bay has been answered and 2,048 GCLK have passed, the bay returns to service
with contexts, map cache and loft cleared. The chip in an abandoned bin's record is the model's choice (log 39). Completes: bayFault,
bayClearDone. -/
def Claims.BayFaultAndClear : Prop :=
  ∀ (s : State) (bay cause ctx : Nat), s.runs = true →
    (bay < s.cfg.bays →
      ∃ u v evs, exec (.bayFault bay cause ctx) s = .next u
        ∧ u = clearBegins (raiseAll v evs) bay ∧ ({ src := 0x10, sub := cause, unit := bay, detail := ctx } : Ev) ∈ evs
        ∧ (∀ b ∈ s.lnk.bins, bay ∈ b.slices → ∃ e ∈ evs, e.src = 0x0D ∧ e.detail = b.rid + b.chip * 2 ^ 16)
        ∧ (u.getB bay).faulted = true ∧ (∀ b ∈ u.lnk.bins, bay ∉ b.slices)
        ∧ (∀ q, (u.getQ q).state = (s.getQ q).state) ∧ v.still = s.still)
    ∧ (∀ a, (s.getB bay).faulted = true → (∀ w ∈ s.writes, w.bay ≠ bay) → (s.getB bay).clearAt = some a → a + 2048 ≤ s.clk.gclk →
      ∃ v, exec (.bayClearDone bay) s = .next (pumpAll v)
        ∧ v.getB bay = { s.getB bay with faulted := false, clearAt := none, ctxs := [], loft := 0, loftClear := true, mapc := [], xl := [], defer := []
                                         since := s.clk.gclk }
        ∧ (∀ b, b ≠ bay → v.getB b = s.getB b)
        ∧ { v with bay := s.bay, reads := s.reads, inv := s.inv } = s)

/-- R398, R441: a granger fault records source 0x11 with its cause and program counter; outside TEST the granger is down from then
on; after 1,024 GCLK it restarts, the command it was carrying out begins anew, and so does every ATS invalidation. Completes:
grangerFault, grangerRestart. -/
def Claims.GrangerFaultAndRestart : Prop :=
  ∀ (s : State) (cause a : Nat) (pc : Word), s.runs = true →
    (s.eng.gHeld = false → s.eng.gFaultAt = none → s.eng.state = .service →
      ∃ u, exec (.grangerFault cause pc) s = .next u ∧ u.eng = { s.eng with gFaultAt := some s.clk.gclk }
        ∧ { u with eng := s.eng } = { raise s { src := 0x11, sub := cause, detail := pc.toNat } with eng := s.eng })
    ∧ (s.eng.gFaultAt = some a → a + 1024 ≤ s.clk.gclk →
      ∃ u, exec .grangerRestart s = .next u ∧ u.eng = { s.eng with gFaultAt := none }
        ∧ (∀ c, s.adm.cmd = some c → (c.phase = .ready ∨ c.phase = .waiting ∨ (∃ d, c.phase = .reading d) ∨ ∃ st r, c.phase = .done st r) → admCheck s.cfg.wakeWires c.raw = 0 →
            u.adm.cmd = some { c with phase := .ready })
        ∧ (∀ c, s.adm.cmd = some c → (c.phase = .writing ∨ c.phase = .written ∨ c.phase = .indexing) → u.adm.cmd = some c)
        ∧ u.inv.map (·.itag) = (s.inv.filter fun v => v.itag.isSome).map (·.itag)
        ∧ u.fe = s.fe.map (fun r => if r.use = .codebook then { r with gone := true } else r)
        ∧ { u with eng := s.eng, adm := s.adm, inv := s.inv, bay := s.bay, fe := s.fe } = s)

/-- R208, R254, Tables 7.4, 11.2 and 11.4: a corrected error changes no data and raises a note of source 5; an uncorrectable one poisons a
block of what the structure holds and raises a fault of source 4, whose unit is the bay, or 0x100 plus the slice for the granary, and the
instruction's arrival will be faulted. Which piece or block the word picks, and the elements it touches, is the model's reading (log 17).
Completes: eccCorrected, eccUncorrectable. -/
def Claims.EccEvents : Prop :=
  ∀ (s : State) (k unit word q pos : Nat), s.runs = true → k < 3 →
    exec (.eccCorrected k unit word) s
      = .next (raise s { src := 5, sub := k, unit := if k = 2 then 0x100 + unit else unit, detail := word })
    ∧ ∃ v, exec (.eccUncorrectable k unit word q pos) s
        = .next (raise v { src := 4, sub := k, unit := if k = 2 then 0x100 + unit else unit
                           inst := (s.flightAt q pos).map fun f => (f.q, f.pos), detail := word })
      ∧ (∀ f, s.flightAt q pos = some f → ∃ g, v.flightOf f.id = some g ∧ g.bad = true ∧ g.badFrom.isSome = true ∧ g.id = f.id
          ∧ (k = 2 → g = flightBad f (match struckLine s unit (word / 64) with | some x => lineElem s f x (word % 64 / 8) | none => 0))
          ∧ ∀ l, k < 2 → f.land[word / 32 % max 1 f.land.length]? = some l → ∃ l', l' ∈ g.land
              ∧ l' = { l with psn := l.psn ||| BitVec.ofNat 5 (2 ^ (word % 32 / 8 % blocksOf l.va l.data.length)) })
      ∧ (s.flightAt q pos = none → k = 2 → v.flights = s.flights)
      ∧ (k < 2 → v.gran = s.gran) ∧ (k = 2 → v.lnk = s.lnk)
      ∧ { v with flights := s.flights, gran.lines := s.gran.lines
                 lnk := { v.lnk with port := s.lnk.port, bins := s.lnk.bins, contribs := s.lnk.contribs } } = s

/-- Faults of bays and of the granger (R396 to R398), and errors of the arrays (R254). -/
def Obligations.UnitFaults : Prop := Claims.BayFaultAndClear ∧ Claims.GrangerFaultAndRestart ∧ Claims.EccEvents

/-! ### Ticks (01) -/

/-- R31, R32, R215, R272, R361, R384, R394: a tick counts in ENG_TICK and in every tick-counted mechanism: the settings of ENG_TICK_CFG
act from it, as they stood when the GCLK began; each armed watchdog counts it, and each incomplete bin that no contribution has entered in
this GCLK; every real-time budget begins anew; at the end of its GCLK quiet advances while level is not 0 and no fault was recorded in
the GCLK, and makes recovery due at FLT_QUIET, and the deadlines that have passed are recorded. Completes: tick. -/
def Claims.TickCounted : Prop :=
  ∀ (s : State), s.runs = true →
    ∃ v, exec .tick s = .next v
      ∧ v.tick = { s.tick with count := s.tick.count + 1#64
                               actInternal := s.start.tick.srcInternal, actPeriod := s.start.tick.intPeriod
                               lastTick := s.clk.gclk, ext := s.tick.ext && !s.start.tick.srcInternal }
      ∧ (∀ t, v.getT t = (if (s.getT t).armed = true ∧ (s.atStart.getT t).wdog ≠ 0 ∧ (s.getT t).target ≠ 0 then
          { s.getT t with idle := min ((s.getT t).idle + 1) (2 ^ 32 - 1)
                          late := decide ((s.atStart.getT t).wdog ≤ min ((s.getT t).idle + 1) (2 ^ 32 - 1)) }
          else s.getT t))
      ∧ v.lnk.bins = s.lnk.bins.map (fun b => if b.count < b.pcnt ∧ b.fed = false then { b with idle := b.idle + 1 } else b)
      ∧ (∀ q, (v.getQ q).rtUsed = 0 ∧ (v.getQ q).rtOut = false
          ∧ { v.getQ q with rtUsed := (s.getQ q).rtUsed, rtOut := (s.getQ q).rtOut, win := (s.getQ q).win } = s.getQ q)
      ∧ { v with tick := s.tick, tal.tally := s.tal.tally, lnk.bins := s.lnk.bins, qs := s.qs } = s
      ∧ (s.ticked = true → s.flt.evs = [] → s.flt.writes = [] → s.flt.recover = false →
          (let n := min (s.flt.quiet + 1) (2 ^ 16 - 1)
           fltPass s = { s with flt := if s.flt.level = 0 ∨ s.flt.hits ≠ [] then { s.flt with hits := [] }
             else { s.flt with quiet := n, recDue := s.flt.recDue || decide (s.start.flt.quietCfg.toNat ≤ n), hits := [] } }))
      ∧ (s.ticked = true → deadlinePass s = tickDeadlines s) ∧ (s.ticked = false → deadlinePass s = s)

/-- R28 to R30: the internal generator counts a tick once its period has passed while tick_in is not in use; an edge of tick_in is
ignored less than 700 GCLK after the last counted one, counts a tick while tick_in is in use, and begins its use as the fourth of
consecutive edges at most 700,000 GCLK apart, whose tick is the one of its GCLK; 1,400,000 GCLK without one end its use, with a tick at
once and a note of source 0x12. That the command tick counts whenever it is sent, and that edges counted while src_internal is 1 bring
tick_in into use at the next counted edge, is the model's choice (log 13). Completes: tick, tickInEdge, internalTick, tickSourceLost. -/
def Claims.TickSources : Prop :=
  ∀ (s : State), s.runs = true →
    (s.tick.ext = false → s.tick.lastTick + s.tick.actPeriod ≤ s.clk.gclk →
      ∃ u, exec .internalTick s = .next u ∧ exec .tick s = .next u)
    ∧ (∀ e, s.tick.lastEdge = some e → s.clk.gclk < e + 700 → exec .tickInEdge s = .next s)
    ∧ ((∀ e, s.tick.lastEdge = some e → e + 700 ≤ s.clk.gclk) →
        (let n := if (∃ e, s.tick.lastEdge = some e ∧ s.clk.gclk ≤ e + 700000) then s.tick.edges + 1 else 1
         let t := { s with tick := { s.tick with edges := n, lastEdge := some s.clk.gclk } }
         (s.tick.ext = true → exec .tickInEdge s = exec .tick t)
         ∧ (s.tick.ext = false → s.tick.actInternal = false → 4 ≤ n →
             (s.ticked = false → exec .tickInEdge s = exec .tick { t with tick.ext := true })
             ∧ (s.ticked = true → exec .tickInEdge s = .next { t with tick.ext := true }))
         ∧ (s.tick.ext = false → (s.tick.actInternal = true ∨ n < 4) → exec .tickInEdge s = .next t)))
    ∧ (∀ e, s.tick.ext = true → s.tick.lastEdge = some e → e + 1400000 ≤ s.clk.gclk →
        ∃ v, exec .tick { s with tick := { s.tick with ext := false, edges := 0 } } = .next v
          ∧ exec .tickSourceLost s = .next (raise v { src := 0x12 }))

/-- R31: ENG_TICK_CFG takes src_internal and int_period, a period below 700 as 700 and above 700,000 as 700,000; the settings in
force, which act until the next tick, do not change. Completes: engTickCfgWrite. -/
def Claims.TickConfig : Prop :=
  ∀ (s : State) (port : Nat) (value : Word), Reaches s port 0x18 →
    ∃ u, exec (.engTickCfgWrite port value) s = .next u
      ∧ u.tick = { s.tick with srcInternal := value.getLsbD 30
                               intPeriod := if value.toNat % 2 ^ 20 < 700 then 700 else if 700000 < value.toNat % 2 ^ 20 then 700000
                                 else value.toNat % 2 ^ 20 }
      ∧ { u with tick := s.tick } = noteWrite s port 0x18

/-- What a counted tick does, where ticks come from, and ENG_TICK_CFG (R28 to R32). -/
def Obligations.Ticks : Prop := Claims.TickCounted ∧ Claims.TickSources ∧ Claims.TickConfig

/-! ### Bay power (13) -/

/-- R444, Table 13.5: a settled bay with no part placed on it goes down one state at a time, while ENG_LAT_TOL allows the latency of
the state: to Idle after 32 GCLK without context, loft or lock, to Nap after 2,800 GCLK in Idle, to Dormant after 84,000 GCLK in Nap
without a bin slice. Completes: bayIdleEntry, bayNapEntry, bayDormantEntry. -/
def Claims.BayPowerDown : Prop :=
  ∀ (s : State) (b : Nat), s.runs = true → b < s.cfg.bays → (s.getB b).waking = none → (s.getB b).faulted = false → (s.getB b).waits = [] →
    ((s.getB b).pwr = .active → 40 ≤ s.eng.latTol.toNat → (s.getB b).ctxs = [] → (s.getB b).loft = 0 → (∀ l ∈ s.locks, l.bay ≠ b) →
      (s.getB b).since + 32 ≤ s.clk.gclk →
      exec (.bayIdleEntry b) s = .next (s.setB b { s.getB b with pwr := .idle, since := s.clk.gclk }))
    ∧ ((s.getB b).pwr = .idle → 4000 ≤ s.eng.latTol.toNat → (s.getB b).since + 2800 ≤ s.clk.gclk →
      exec (.bayNapEntry b) s = .next (s.setB b { s.getB b with pwr := .nap, since := s.clk.gclk }))
    ∧ ((s.getB b).pwr = .nap → 120000 ≤ s.eng.latTol.toNat → (s.getB b).since + 84000 ≤ s.clk.gclk → (∀ x ∈ s.lnk.bins, b ∉ x.slices) →
      exec (.bayDormantEntry b) s = .next (s.setB b { s.getB b with pwr := .dormant, since := s.clk.gclk }))

/-- R445 to R447, Table 13.5: a sleeping bay on which a part has been placed, or whose state ENG_LAT_TOL no longer allows, begins to wake,
for its state's latency (28, 2,800 or 84,000 GCLK), counted from Nap and Dormant; at the end it is Active, with the invalidations that
reached it asleep applied, and its loft reading zero after Dormant, and what may issue issues; a part that has waited 64 GCLK without a
context or loft wakes the lowest-numbered bay in Nap, or else in Dormant, and none wakes another within 64 GCLK. That a part placed on a bay
in Nap or Dormant wakes it before it has waited 64 GCLK, and that the 64 GCLK count over all waiting parts, are the model's reading (log
25). Completes: bayWake, bayWakeDone, bayWakeForWaitingPart. -/
def Claims.BayWakes : Prop :=
  ∀ (s : State) (b : Nat), s.runs = true →
    (let y := s.getB b
     let woken := { y with
       waking := some (s.clk.gclk + (if y.pwr = .idle then 28 else if y.pwr = .nap then 2800 else 84000))
       wakeCnt := if y.pwr = .idle then y.wakeCnt else y.wakeCnt + 1 }
     (b < s.cfg.bays → y.pwr ≠ .active → y.waking = none → (y.waits ≠ [] ∨ s.eng.latTol.toNat < latencyNs y.pwr) →
       exec (.bayWake b) s = .next (s.setB b woken))
     ∧ (∀ g, y.waking = some g → g ≤ s.clk.gclk →
       exec (.bayWakeDone b) s = .next (pumpAll (s.setB b { y with
         pwr := .active, waking := none, since := s.clk.gclk, defer := [], loftClear := y.loftClear || y.pwr == .dormant
         mapc := y.mapc.filter fun e => !y.defer.any fun r => e.hit r })))
     ∧ (∀ x, longWaiting s = some x → nextSleeper s = some b →
       ∃ u, exec (.bayWakeForWaitingPart b) s = .next u ∧ u.getB b = woken ∧ (∀ k, k ≠ b → u.getB k = s.getB k)
         ∧ { u with bay := s.bay } = { s with eng.lastWake := some s.clk.gclk })
     ∧ (∀ g, s.eng.lastWake = some g → s.clk.gclk < g + 64 → exec (.bayWakeForWaitingPart b) s = .next s))

/-- R445: ENG_LAT_TOL takes its value, and every bay whose state's latency exceeds it begins to wake, for that state's latency; the
other bays, and those already waking, stay as they are. Completes: engLatTolWrite. -/
def Claims.LatencyTolerance : Prop :=
  ∀ (s : State) (port : Nat) (value : Word), Reaches s port 0x1C →
    ∃ u, exec (.engLatTolWrite port value) s = .next u ∧ u.eng.latTol = value
      ∧ (∀ b, (latencyNs (s.getB b).pwr ≤ value.toNat ∨ (s.getB b).waking ≠ none) → u.getB b = s.getB b)
      ∧ (∀ b, value.toNat < latencyNs (s.getB b).pwr → (s.getB b).waking = none → u.getB b = { s.getB b with
          waking := some (s.clk.gclk + (if (s.getB b).pwr = .idle then 28 else if (s.getB b).pwr = .nap then 2800 else 84000))
          wakeCnt := if (s.getB b).pwr = .idle then (s.getB b).wakeCnt else (s.getB b).wakeCnt + 1 })
      ∧ { u with eng.latTol := s.eng.latTol, bay := s.bay } = noteWrite s port 0x1C

/-- Bays leave and regain Active (R444 to R448), and ENG_LAT_TOL (R444). -/
def Obligations.BayPower : Prop := Claims.BayPowerDown ∧ Claims.BayWakes ∧ Claims.LatencyTolerance

/-! ### Start-up, resets and freeze (12, 13) -/

/-- R435, R436: a load is accepted in COLD, or in LOAD or TEST after a failure: the granger is held, the cause and ENG_TEST_BAYS are
cleared, and LOAD begins, in which no self-test queue exists. A read-load of a good base and length brings the image into granger memory
from address 0 and is hashed; a bad one stops under cause 4. A reuse load hashes the kept image, and stops under 5 without one, under 4
for a bad length. That the image comes whole with fwLoad, cut or filled with zeros to the length, is the model's choice (log 29).
Completes: fwLoad, fwReuse. -/
def Claims.FirmwareLoad : Prop :=
  ∀ (s : State) (port : Nat) (image : List Byte), Reaches s port 0x2C →
    (s.eng.state = .cold ∨ ((s.eng.state = .load ∨ s.eng.state = .test) ∧ s.eng.cause ≠ 0)) →
    (let n := s.eng.fwLen.toNat
     let good := n % 64 = 0 ∧ 64 ≤ n ∧ n ≤ 1048576
     let w := if s.eng.state = .test then dropTest (noteWrite s port 0x2C) else noteWrite s port 0x2C
     let begun := { w with eng := { (noteWrite s port 0x2C).eng with
       gHeld := true, cause := 0, testBays := 0#64, state := .load, since := s.clk.gclk, reuse := false, hashing := false, imgAt := 0 } }
     let dropped := s.fe.map fun r => if feImage r.use then { r with gone := true } else r
     (good → s.eng.fwBase.toNat % 64 = 0 →
       exec (.fwLoad port image) s = .next { begun with
         eng.gmem := s.eng.gmem.writeAll 0 (sliceBytes image 0 n), eng.hashing := true })
     ∧ ((¬ good ∨ s.eng.fwBase.toNat % 64 ≠ 0) →
       exec (.fwLoad port image) s = .next { begun with eng.cause := 4, eng.imgKept := false, fe := dropped })
     ∧ (good → s.eng.imgKept = true → exec (.fwReuse port) s = .next { begun with eng.reuse := true, eng.hashing := true })
     ∧ (¬ good → s.eng.imgKept = true → exec (.fwReuse port) s = .next { begun with eng.reuse := true, eng.cause := 4, fe := dropped })
     ∧ (s.eng.imgKept = false → exec (.fwReuse port) s = .next { begun with eng.reuse := true, eng.cause := 5, fe := dropped })
     ∧ (s.eng.state = .test → (∀ q, 65528 ≤ q → q < 65536 → w.getQ q = {}) ∧ (∀ t, 16376 ≤ t → t < 16384 → w.getT t = {})
          ∧ { w with qs := s.qs, tal.tally := s.tal.tally } = noteWrite s port 0x2C))

/-- R435: a write of go while the engine runs, or while a load or the self-test is in progress, is ignored. -/
def Claims.FirmwareLoadIgnored : Prop :=
  ∀ (s : State) (port : Nat) (image : List Byte), Reaches s port 0x2C →
    (s.eng.state = .service ∨ s.eng.state = .safe ∨ ((s.eng.state = .load ∨ s.eng.state = .test) ∧ s.eng.cause = 0)) →
    exec (.fwLoad port image) s = .next (noteWrite s port 0x2C) ∧ exec (.fwReuse port) s = .next (noteWrite s port 0x2C)

/-- R436 to R440: a read-load whose read fails or times out stops under cause 2 or 3 with img_kept 0, its other reads discarded; in
the GCLK after the image is hashed, a matching digest sets img_kept, releases the granger and enters TEST, with the self-test's queues in
cached-ring mode, or SERVICE when skip_test is 1 (a misaligned self-test memory fails the test at once under 0x11); a digest that does
not match stops the load under cause 1. Completes: fwDigestCheck, imageReadFailure. -/
def Claims.DigestCheck : Prop :=
  ∀ (s : State), s.eng.state = .load → s.eng.cause = 0 → s.eng.hashing = true →
    (let dropped := s.fe.map fun r => if feImage r.use then { r with gone := true } else r
     (∀ r ∈ s.fe, s.eng.reuse = false → feImage r.use = true → r.gone = false →
       exec (.imageReadFailure false) s
         = .next { s with eng := { s.eng with cause := 2, hashing := false, gHeld := true, imgKept := false }, fe := dropped }
       ∧ (r.due ≤ s.clk.gclk →
         exec (.imageReadFailure true) s
           = .next { s with eng := { s.eng with cause := 3, hashing := false, gHeld := true, imgKept := false }, fe := dropped }))
     ∧ (s.eng.since + 40 * ((s.eng.fwLen.toNat + 16) / 128 + 1) < s.clk.gclk →
      (let hash := sha384 (s.eng.gmem.readN 0 s.eng.fwLen.toNat)
       let want := (List.range 12).flatMap fun n => leBytes (s.eng.digest.getD 0#32 n).toNat 4
       let done := { s.eng with imgKept := true, hashing := false, gHeld := false, since := s.clk.gclk }
       let t := { s with fe := s.fe.filter fun r => !feImage r.use || r.gone }
       (hash = want → s.eng.skipTest = true →
         exec .fwDigestCheck s = .next { t with eng := { done with state := .service } })
       ∧ (hash = want → s.eng.skipTest = false → s.eng.testBase.toNat % 2097152 = 0 →
         ∃ u, exec .fwDigestCheck s = .next u ∧ u.eng = { done with state := .test }
           ∧ (∀ q, 65528 ≤ q → q < 65536 → (u.getQ q).state = .enabled ∧ (u.getQ q).cached = true ∧ (u.getQ q).win = [])
           ∧ (∀ q, q < 65528 → u.getQ q = s.getQ q) ∧ (∀ t, t < 16376 → u.getT t = s.getT t)
           ∧ { u with eng := s.eng, qs := s.qs, tal.tally := s.tal.tally, free := s.free } = t)
       ∧ (hash = want → s.eng.skipTest = false → s.eng.testBase.toNat % 2097152 ≠ 0 →
         exec .fwDigestCheck s = .next { t with eng := { done with state := .test, cause := 0x11, gHeld := true } })
       ∧ (hash ≠ want → ∃ u, exec .fwDigestCheck s = .next u ∧ u.eng.cause = 1 ∧ u.eng.state = .load ∧ u.eng.gHeld = true
           ∧ u.eng.imgKept = (s.eng.reuse && s.eng.imgKept) ∧ u.fe = dropped ∧ { u with eng := s.eng, fe := s.fe } = s))))

/-- R441, R442: in TEST a pass empties the self-test's tallies and queues, invalidates every granary line and map-cache entry and
enters SERVICE; a failure latches its cause (0x10 with the bay's bit in ENG_TEST_BAYS, 0x11, or 0x13 after 2^26 GCLK) and halts the
granger, and the self-test's queues are aborted. Completes: selfTestPass, selfTestFail, selfTestTimeout. -/
def Claims.SelfTest : Prop :=
  ∀ (s : State) (bay : Nat), s.eng.state = .test → s.eng.cause = 0 →
    (∃ u, exec .selfTestPass s = .next u ∧ u.eng = { s.eng with state := .service, gHeld := false }
        ∧ u.gran.lines = [] ∧ (∀ b, (u.getB b).mapc = [])
        ∧ (∀ t, 16376 ≤ t → t < 16384 → u.getT t = {}) ∧ (∀ t, t < 16376 → u.getT t = s.getT t)
        ∧ (∀ q, 65528 ≤ q → q < 65536 → u.getQ q = {}) ∧ (∀ q, q < 65528 → u.getQ q = s.getQ q)
        ∧ { u with eng := s.eng, gran := s.gran, bay := s.bay, tal.tally := s.tal.tally, qs := s.qs } = s)
    ∧ (bay < 64 →
      exec (.selfTestFail 0x10 bay) s = .next (abortTest { s with eng := { s.eng with
        testBays := s.eng.testBays ||| BitVec.ofNat 64 (2 ^ bay), cause := 0x10, gHeld := true } }))
    ∧ exec (.selfTestFail 0x11 bay) s = .next (abortTest { s with eng := { s.eng with cause := 0x11, gHeld := true } })
    ∧ (s.eng.since + 2 ^ 26 ≤ s.clk.gclk →
      exec .selfTestTimeout s = .next (abortTest { s with eng := { s.eng with cause := 0x13, gHeld := true } }))
    ∧ (abortTest s).still = s.still ∧ (∀ q, 65528 ≤ q → q < 65536 → ((abortTest s).getQ q).state ≠ .enabled)

/-- The firmware load, its digest check and the self-test (R434 to R442). -/
def Obligations.StartUp : Prop := Claims.FirmwareLoad ∧ Claims.FirmwareLoadIgnored ∧ Claims.DigestCheck ∧ Claims.SelfTest

/-- R403, R443: a reset acts in every state, a frozen one included. A cold reset leaves every part of the block at its reset value but the
inputs; a warm reset keeps the items of Table 13.4 too, with the records of its GCLK (log 28), sets ENG_STATE.warm and begins to recompute
the sorted bits. The commands that wait, the configuration and the counter of free values are the model's own and stay (log 6, log 9, log
32). Completes: coldReset, warmReset. -/
def Claims.Resets : Prop :=
  ∀ (s : State),
    (∃ u, exec .coldReset s = .next u
      ∧ u.start = u.toCore ∧ { u with lnk.port := [], start := { cfg := s.cfg } } = { State.resetOf s.cfg with pending := s.pending, free := s.free, masks := s.masks, falls := s.falls, dbg.factory := s.dbg.factory }
      ∧ ∀ n p, (n, p) ∈ u.lnk.port → p = { phyUp := true } ∧ ∃ z, (n, z) ∈ s.lnk.port ∧ z.phyUp = true)
    ∧ (let c := recordAll s
      ∃ u, exec .warmReset s = .next u
      ∧ u.crib = { mem := s.crib.mem, stale := true }
      ∧ u.flt = { hist := c.flt.hist, nextSeq := c.flt.nextSeq, recovCnt := s.flt.recovCnt }
      ∧ u.eng = { warm := true, gmem := s.eng.gmem, imgKept := c.eng.imgKept, fwBase := s.eng.fwBase, fwLen := s.eng.fwLen
                  digest := s.eng.digest, testBase := s.eng.testBase, skipTest := s.eng.skipTest }
      ∧ u.dbg = s.dbg ∧ u.start = u.toCore
      ∧ { u with crib := {}, flt := {}, eng := {}, dbg := { factory := s.dbg.factory }, lnk.port := [], start := { cfg := s.cfg } }
          = { State.resetOf s.cfg with pending := s.pending, free := s.free, masks := s.masks, falls := s.falls, dbg.factory := s.dbg.factory }
      ∧ ∀ n p, (n, p) ∈ u.lnk.port → p = { phyUp := true } ∧ ∃ z, (n, z) ∈ s.lnk.port ∧ z.phyUp = true)

/-- R98, R427: when the sorted bits have been recomputed, the fetch checks that waited are made; freeze_in withdraws every offer,
ends every wake pulse and stops the block, with the events of its GCLK recorded (log 28). Completes: cribStatRecomputeDone, freeze. -/
def Claims.FreezeAndRecompute : Prop :=
  ∀ (s : State), s.runs = true →
    (s.crib.stale = true → exec .cribStatRecomputeDone s = .next (recheckAll { s with crib.stale := false })
      ∧ (recheckAll { s with crib.stale := false }).crib = { s.crib with stale := false })
    ∧ (let c := recordAll s
      ∃ u, exec .freeze s = .next u ∧ u.eng = { c.eng with state := .frozen }
      ∧ (∀ c, u.sig.offer.getD none c = none) ∧ (∀ w, (u.tal.wire.getD {} w).firedAt = none)
      ∧ { u with eng := c.eng, sig.offer := c.sig.offer, tal.wire := c.tal.wire } = c)

/-- The resets (R403, R443), the freeze (R427), and the recomputation of the sorted bits (R98). -/
def Obligations.ResetsAndFreeze : Prop := Claims.Resets ∧ Claims.FreezeAndRecompute

/-! ### The debug access path (13) -/

/-- R19, R449 to R451, Table 13.7: in every engine state, a read of a good space and address ends with status 0, is counted, and clears
nothing: of the whole block only the debug path, the captures of its port and the counter of free values change. It returns the control
space's value (space 0), zero of a loft that has been cleared and whose bay has granted none of it since (1), the saturated accumulator of
the part in a stream context, with its flags (2), the raw form of an open bin's accumulator (3), a map-cache entry (4), granger memory (5);
op 3 leaves the address advanced. A space or address outside the table is status 2. The order of the two statuses, what is counted, the wrap
of the advanced address, the order of a map cache's entries, which of a part's accumulators stand, and the access's holding every arbiter
for its GCLK are the model's choices (log 24). Completes: debugRead, debugReadAdvance. -/
def Claims.DebugReads : Prop :=
  ∀ (s : State) (space addr : Nat),
    (dbgGood s space addr = true →
      ∃ u v, exec (.debugRead space addr) s = .next u ∧ exec (.debugReadAdvance space addr) s = .next v
        ∧ v = { u with dbg.addr := dbgNext space addr } ∧ u.dbg.addr = addr
        ∧ u.dbg.status = 0#4 ∧ u.dbg.space = BitVec.ofNat 4 space ∧ u.dbg.dapCnt = s.dbg.dapCnt + 1
        ∧ u.dbg.busy = (s.dbg.busy || s.runs)
        ∧ (space = 0 → u.dbg.data = BitVec.ofNat 64 (csRead s s.cfg.bays (addr % 2 ^ 26) (if addr.testBit 55 then 8 else 4) false).1)
        ∧ (space = 1 → (s.getB (addr / 2 ^ 48 % 2 ^ 6)).loftClear = true → u.dbg.data = 0#64)
        ∧ (∀ a, space = 2 → partAcc s (addr / 2 ^ 48 % 2 ^ 6) (addr / 2 ^ 40 % 2 ^ 7) (addr / 4 % 2 ^ 16) = some a →
            u.dbg.data = BitVec.ofNat 64 (if addr % 4 = 2 then (accFinal a).fl % 256
                                          else unsext 128 (accFinal a).s / 2 ^ (64 * (addr % 4)) % 2 ^ 64))
        ∧ (∀ a, space = 3 → binAcc s (addr / 2 ^ 32 % 2 ^ 16) (addr / 4 % 2 ^ 17) = some a →
            u.dbg.data = BitVec.ofNat 64 (accRaw a / 2 ^ (64 * (addr % 4)) % 2 ^ 64))
        ∧ (∀ e, space = 4 → (s.getB (addr / 2 ^ 48 % 2 ^ 6)).mapc[addr / 2 % 2 ^ 10]? = some e →
            u.dbg.data = BitVec.ofNat 64 (if addr % 2 = 0 then e.va / 4096 * 4096 + 8 + e.size % 8 else e.pa / 4096 * 4096))
        ∧ (space = 5 → u.dbg.data = BitVec.ofNat 64 (leNat (s.eng.gmem.readN (addr % 2 ^ 20) 8)))
        ∧ { u with dbg := s.dbg, cs := s.cs, free := s.free } = s)
    ∧ (dbgGood s space addr = false →
      ∃ u, exec (.debugRead space addr) s = .next u ∧ exec (.debugReadAdvance space addr) s = .next u ∧ u.dbg.status = 2#4
        ∧ u.dbg.dapCnt = s.dbg.dapCnt ∧ { u with dbg := s.dbg, free := s.free } = s)
    ∧ (6 ≤ space → dbgGood s space addr = false)
    ∧ ((space = 1 ∨ space = 2 ∨ space = 4) → s.cfg.bays ≤ addr / 2 ^ 48 % 2 ^ 6 → dbgGood s space addr = false)

/-- R403, R450, R458: a debug write is carried out only in space 0 of an engine that is not frozen, as a control-space write of the
debug path's own port; outside space 0, and of a frozen engine, it is refused with status 3, and a bad space or address is status 2; while
a write of the granger's is still to come in its GCLK, it waits for it (R458).
trst_n resets the TAP controller alone. Completes: debugWrite, tapControllerReset. -/
def Claims.DebugWrites : Prop :=
  ∀ (s : State) (space addr : Nat) (data : DWord),
    (s.runs = true → grangerDue s = true →
      exec (.debugWrite space addr data) s = .next { s with cs.late := s.cs.late ++ [.debugWrite space addr data], dbg.busy := true })
    ∧ (dbgGood s space addr = true → space = 0 → s.runs = true → grangerDue s = false →
      ∃ u w, exec (.debugWrite space addr data) s = .next u
        ∧ w = csWrite s s.cfg.bays (addr % 2 ^ 26) (if addr.testBit 55 then 8 else 4) data
        ∧ u.dbg.status = 0#4 ∧ u.dbg.dapCnt = w.dbg.dapCnt + 1 ∧ { u with dbg := w.dbg, free := w.free } = w)
    ∧ (dbgGood s space addr = true → ((space ≠ 0 ∧ grangerDue s = false) ∨ s.eng.state = .frozen) →
      ∃ u, exec (.debugWrite space addr data) s = .next u ∧ u.dbg.status = 3#4 ∧ u.dbg.dapCnt = s.dbg.dapCnt
        ∧ { u with dbg := s.dbg, free := s.free } = s)
    ∧ (dbgGood s space addr = false → (grangerDue s = false ∨ s.eng.state = .frozen) →
      ∃ u, exec (.debugWrite space addr data) s = .next u ∧ u.dbg.status = 2#4 ∧ u.dbg.dapCnt = s.dbg.dapCnt
        ∧ { u with dbg := s.dbg, free := s.free } = s)
    ∧ exec .tapControllerReset s = .next { s with dbg.tapReset := true }

/-- R449, R451, Table 13.6: the debug data register holds op, space, address and data in bits 127 to 124, 123 to 120, 119 to 64 and 63 to 0:
what Update-DR finds there is the operation that comes next, none for op 0; what Capture-DR loads has the status in op's place, busy while
an access holds the arbiters. -/
def Claims.DebugRegister : Prop :=
  (∀ (s : State) (space : BitVec 4) (addr : BitVec 56) (data : DWord),
    updateDr s (0#4 ++ space ++ addr ++ data) = s
    ∧ updateDr s (1#4 ++ space ++ addr ++ data) = { s with pending := .debugRead space.toNat addr.toNat :: s.pending }
    ∧ updateDr s (2#4 ++ space ++ addr ++ data) = { s with pending := .debugWrite space.toNat addr.toNat data :: s.pending }
    ∧ updateDr s (3#4 ++ space ++ addr ++ data) = { s with pending := .debugReadAdvance space.toNat addr.toNat :: s.pending })
  ∧ (∀ d : Debug, d.busy = false → dbgCapture d = d.status ++ d.space ++ BitVec.ofNat 56 d.addr ++ d.data)
  ∧ (∀ d : Debug, d.busy = true → dbgCapture d = 1#4 ++ d.space ++ BitVec.ofNat 56 d.addr ++ d.data)

/-- The debug access path (R449 to R451, R458) and the TAP reset (R403). -/
def Obligations.DebugAccess : Prop := Claims.DebugReads ∧ Claims.DebugWrites ∧ Claims.DebugRegister

/-! ### The control space (14) -/

/-- R259, R415: a write of 1 to GRAN_CTRL.inv_all invalidates every granary line, and the fills outstanding are not allocated; a write to
STK_BASE, STK_SIZE or STK_ILV takes effect, with the same invalidation, only while no bay holds a context and no front-end request
is outstanding, and is ignored otherwise. Completes: granInvAll, stackDecodeWrite. -/
def Claims.GranaryControl : Prop :=
  ∀ (s : State) (port : Nat) (value : DWord),
    (let emptied (t : State) (off : Nat) (base size : DWord) (ilv : Nat) : Prop :=
       t.gran = { s.gran with lines := [], fills := s.gran.fills.map fun x => { x with noAlloc := true }
                              stkBase := base, stkSize := size, stkIlv := ilv }
       ∧ { t with gran := s.gran } = (if off = 0xE00000 then noteWrite s port off else dropHalf (noteWrite s port off) port off)
     (Reaches s port 0xE00000 → ∃ u, exec (.granInvAll port) s = .next u ∧
       emptied u 0xE00000 s.gran.stkBase s.gran.stkSize s.gran.stkIlv)
     ∧ (stackIdle s = true → Reaches s port 0xE00020 → ∃ u, exec (.stackDecodeWrite port 0 value) s = .next u ∧
       emptied u 0xE00020 (BitVec.ofNat 64 (value.toNat / 2 ^ 30 * 2 ^ 30)) s.gran.stkSize s.gran.stkIlv)
     ∧ (stackIdle s = true → Reaches s port 0xE00028 → ∃ u, exec (.stackDecodeWrite port 1 value) s = .next u ∧
       emptied u 0xE00028 s.gran.stkBase (BitVec.ofNat 64 (value.toNat / 2 ^ 30 * 2 ^ 30)) s.gran.stkIlv)
     ∧ (stackIdle s = true → Reaches s port 0xE00030 → ∃ u, exec (.stackDecodeWrite port 2 value) s = .next u ∧
       emptied u 0xE00030 s.gran.stkBase s.gran.stkSize
         (if value.toNat % 32 < 9 then 9 else if 21 < value.toNat % 32 then 21 else value.toNat % 32)))
    ∧ (∀ which, which < 3 → stackIdle s = false → Reaches s port (stkReg which) →
       exec (.stackDecodeWrite port which value) s = .next (dropHalf (noteWrite s port (stkReg which)) port (stkReg which)))

/-- R9, R98, R102: an aligned 4- or 8-byte write to the crib stores its bytes at its offset and no others, unless an outstanding entry
or a LOAD_CODEBOOK makes the slot busy: then it is counted in CRIB_DROP_CNT and changes nothing else; a misaligned one is ignored.
Each is answered (R421). Completes: cribWrite. -/
def Claims.CribWrites : Prop :=
  ∀ (s : State) (port off size : Nat) (value : DWord), s.runs = true → csOpen s port = true → off < 0x80000 → (size = 4 ∨ size = 8) →
    (off % size = 0 → cribBusy s (off / 512) = false → s.crib.mem.wf = true →
      ∃ u, exec (.cribWrite port off size value) s = .next u
        ∧ (∀ a, off ≤ a → a < off + size → u.crib.mem.read a = BitVec.ofNat 8 (value.toNat / 2 ^ (8 * (a - off))))
        ∧ (∀ a, (a < off ∨ off + size ≤ a) → u.crib.mem.read a = s.crib.mem.read a)
        ∧ { u with crib.mem := s.crib.mem } = answered (csGrant s port) port 0#64)
    ∧ (off % size = 0 → cribBusy s (off / 512) = true →
      exec (.cribWrite port off size value) s
        = .next (answered (csGrant { s with crib.dropCnt := s.crib.dropCnt + 1 } port) port 0#64))
    ∧ (off % size ≠ 0 → exec (.cribWrite port off size value) s = .next (answered s port 0#64))

/-- GRAN_CTRL and the stack decode (R259, R415), and writes to the crib (R98, R102). -/
def Obligations.GranaryAndCrib : Prop := Claims.GranaryControl ∧ Claims.CribWrites

/-- R127, R128, R455: a write to Q_ELEM_CNT or Q_CLIP_CNT of an existing queue sets the counter to the value written and what this GCLK has
added; a read of Q_ELEM_CNT, whole or of its low half, returns the value at the start of the GCLK and captures that of Q_CLIP_CNT for the
port, and the port's next read of that queue's Q_CLIP_CNT returns the capture. Completes: queueCounterWrite, qElemCntRead. -/
def Claims.QueueCounters : Prop :=
  ∀ (s : State) (port q : Nat) (value : DWord), 1 ≤ q → q < 65536 →
    (Reaches s port (qReg q 0x20) → (s.getQ q).state ≠ .absent →
      exec (.queueCounterWrite port q false value) s
        = .next ((dropHalf (noteWrite s port (qReg q 0x20)) port (qReg q 0x20)).setQ q
            { s.getQ q with elemCnt := min (value.toNat + (s.getQ q).elemNow) (2 ^ 64 - 1) }))
    ∧ (Reaches s port (qReg q 0x28) → (s.getQ q).state ≠ .absent →
      exec (.queueCounterWrite port q true value) s
        = .next ((dropHalf (noteWrite s port (qReg q 0x28)) port (qReg q 0x28)).setQ q
            { s.getQ q with clipCnt := min (value.toNat + (s.getQ q).clipNow) (2 ^ 64 - 1) }))
    ∧ (s.runs = true → port < s.cfg.bays → csRoom s port = true → s.cs.cur = false →
      ∃ u w, exec (.qElemCntRead port q 8) s = .next u ∧ exec (.qElemCntRead port q 4) s = .next w
        ∧ u.cs.data port = BitVec.ofNat 64 (s.view.getQ q).elemCnt
        ∧ w.cs.data port = BitVec.ofNat 64 ((s.view.getQ q).elemCnt % 2 ^ 32)
        ∧ w.cs.hi.getD none port = some (qReg q 0x20, BitVec.ofNat 32 ((s.view.getQ q).elemCnt / 2 ^ 32))
        ∧ (∀ t, (t.cs = u.cs ∨ t.cs = w.cs) →
            (csRead t port (qReg q 0x28) 8 true).1 = (s.view.getQ q).clipCnt % 2 ^ 64
            ∧ (csRead t port (qReg q 0x28) 8 true).2.cs.clip.getD none port = none)
        ∧ { u with cs := s.cs } = s ∧ { w with cs := s.cs } = s)

/-- R11, R12, R457: a 32-bit write of the low half of a 64-bit register waits as its port's pending half, the register unchanged; the
write of the high half joins the pending half of that register, or else its current low half (of a queue counter, without what this GCLK
adds to it after every write, R127), and keeps one of another register; a write of
the whole register drops the half that its port holds pending of it. A read of a low half captures the high half for its port, whose next
read of that high half returns the capture once. Completes: halfWrite64, lowHalfReadCapture. -/
def Claims.RegisterHalves : Prop :=
  ∀ (s : State) (port off : Nat) (value : Word) (r : Reg), s.runs = true → off % 8 = 0 → regAt s off = some r → r.wide = true →
    regAt s (off + 4) = none →
    (testShut s port off = false → csOpen s port = true →
      exec (.halfWrite64 port off value) s = .next (noteWrite { s with cs.low := s.cs.low.put port (some (off, value)) } port off)
      ∧ (∀ lo, s.cs.low.getD none port = some (off, lo) →
        exec (.halfWrite64 port (off + 4) value) s
          = .next (set64 { s with cs.low := s.cs.low.put port none } port off (value ++ lo)))
      ∧ ((∀ lo, s.cs.low.getD none port ≠ some (off, lo)) →
        exec (.halfWrite64 port (off + 4) value) s
          = .next (set64 s port off (BitVec.ofNat 64 (ownVal s off r.val % 2 ^ 32 + value.toNat * 2 ^ 32)))))
    ∧ ((∀ lo, s.cs.low.getD none port = some (off, lo) → dropHalf s port off = { s with cs.low := s.cs.low.put port none })
      ∧ ((∀ lo, s.cs.low.getD none port ≠ some (off, lo)) → dropHalf s port off = s))
    ∧ (∀ x, port < s.cfg.bays → csRoom s port = true → s.cs.cur = false → regAt s.view off = some x → x.wide = true → regAt s.view (off + 4) = none →
      (∃ u, exec (.lowHalfReadCapture port off) s = .next u
        ∧ (let v := (csRead s port off 8 true).1
           u.cs.data port = BitVec.ofNat 64 (v % 2 ^ 32)
           ∧ u.cs.hi.getD none port = some (off, BitVec.ofNat 32 (v / 2 ^ 32))))
      ∧ (∀ h, s.cs.hi.getD none port = some (off, h) →
        exec (.lowHalfReadCapture port (off + 4)) s
          = .next (answered { s with cs.hi := s.cs.hi.put port none } port (BitVec.ofNat 64 h.toNat))))

/-- The queue counters (R127, R128), and 64-bit registers by halves (R11, R12). -/
def Obligations.CountersAndHalves : Prop := Claims.QueueCounters ∧ Claims.RegisterHalves

/-- R10, R16, R18, R19, R455, R456: a read returns the register's value at the start of the GCLK, or zero where there is none; a mesh port's
read of a register with an RC field clears it, once in a GCLK, and the field ends the GCLK with what this GCLK has added to it; the debug
path's read clears nothing. Completes: rcCounterRead. -/
def Claims.RegisterReads : Prop :=
  ∀ (s : State) (port off : Nat) (r : Reg), s.runs = true → csRoom s port = true → off % 4 = 0 → inCrib off = false →
    (regAt s.view off = some r → r.wide = false →
      (∀ t, rcClear s off = some t → port < s.cfg.bays → off ∉ s.clk.seen →
        exec (.rcCounterRead port off 4) s
          = .next (answered { t with clk := { s.clk with seen := off :: s.clk.seen } } port (BitVec.ofNat 64 r.val)))
      ∧ ((rcClear s off = none ∨ s.cfg.bays ≤ port ∨ off ∈ s.clk.seen) →
        exec (.rcCounterRead port off 4) s = .next (answered s port (BitVec.ofNat 64 r.val))))
    ∧ (regAt s.view off = none → (off % 8 = 0 ∨ regAt s.view (off - 4) = none) →
        exec (.rcCounterRead port off 4) s = .next (answered s port 0#64))
    ∧ rcClear s 0xF0 = some { s with eng.collide := s.eng.collide - s.start.eng.collide }
    ∧ rcClear s 0x10010 = some { s with flt.recovCnt := s.flt.recovCnt - s.start.flt.recovCnt }
    ∧ rcClear s 0x20008 = some { s with sig.stray := s.sig.stray - s.start.sig.stray }
    ∧ rcClear s 0x2F0000 = some { s with tal.stray := s.tal.stray - s.start.tal.stray }
    ∧ rcClear s 0xCC0000 = some { s with crib.dropCnt := s.crib.dropCnt - s.start.crib.dropCnt }

/-- R10, R16, R223, R312, R434, Tables 14.3 to 14.8: a register without a row of its own takes the value written to its RW fields, within
the bounds its fields have, and only while its own rule opens it; a write to an RO register, or where there is none, changes no
register. Completes: registerWrite. -/
def Claims.RegisterWrites : Prop :=
  ∀ (s : State) (port : Nat) (value : DWord), s.runs = true → csOpen s port = true →
    (let w := BitVec.ofNat 32 value.toNat
     let us : BitVec 16 := BitVec.ofNat 16 (max 1 (value.toNat % 65536))
     (exec (.registerWrite port 0x0 4 value) s = .next (noteWrite s port 0x0))
     ∧ (exec (.registerWrite port 0x0C 4 value) s = .next (noteWrite s port 0x0C))
     ∧ (exec (.registerWrite port 0x100 4 value) s = .next (answered s port 0#64))
     ∧ (exec (.registerWrite port 0x08 4 value) s = .next { noteWrite s port 0x08 with eng.skipTest := value.getLsbD 0 })
     ∧ (exec (.registerWrite port 0xF4 4 value) s = .next { noteWrite s port 0xF4 with eng.fetchTimeout := us })
     ∧ (exec (.registerWrite port 0x1000C 4 value) s = .next { noteWrite s port 0x1000C with
         flt.writes := s.flt.writes ++ [(0x1000C, w)] })
     ∧ (exec (.registerWrite port 0x9F0004 4 value) s = .next { noteWrite s port 0x9F0004 with lnk.timeout := us })
     ∧ (exec (.registerWrite port 0x9F0008 4 value) s = .next { noteWrite s port 0x9F0008 with lnk.mcStall := us })
     ∧ (exec (.registerWrite port 0x9F000C 4 value) s = .next { noteWrite s port 0x9F000C with
         lnk.binLimit := value.toNat % 256, lnk.binIdle := BitVec.ofNat 16 (value.toNat / 65536) })
     ∧ ((∀ n p, (n, p) ∈ s.lnk.port → p.state = .down) →
         exec (.registerWrite port 0x9F0000 4 value) s = .next { noteWrite s port 0x9F0000 with lnk.self := BitVec.ofNat 16 value.toNat })
     ∧ ((∃ n p, (n, p) ∈ s.lnk.port ∧ p.state ≠ .down) →
         exec (.registerWrite port 0x9F0000 4 value) s = .next (noteWrite s port 0x9F0000))
     ∧ (s.eng.state = .cold → ∀ k, k < 12 →
         ∃ u, exec (.registerWrite port (0x40 + 4 * k) 4 value) s = .next u ∧ u.eng.digest.getD 0#32 k = w
           ∧ (∀ j, j ≠ k → u.eng.digest.getD 0#32 j = s.eng.digest.getD 0#32 j)
           ∧ { u with eng.digest := s.eng.digest } = noteWrite s port (0x40 + 4 * k))
     ∧ (s.eng.state = .service →
         exec (.registerWrite port 0x28 4 value) s = .next (noteWrite s port 0x28))
     ∧ (s.adm.ringLog2 = 0 → s.adm.cmd = none → s.cs.low.getD none port = none →
         exec (.registerWrite port 0x200 8 value) s = .next { noteWrite s port 0x200 with
           adm.ringBase := BitVec.ofNat 64 (value.toNat / 64 * 64) })
     ∧ (s.adm.ringLog2 ≠ 0 → s.cs.low.getD none port = none →
         exec (.registerWrite port 0x200 8 value) s = .next (noteWrite s port 0x200)))

/-- R10: an access to an offset that holds no register completes: a read answers zero, and a write changes nothing. -/
def Claims.NoRegisterThere : Prop :=
  ∀ (s : State) (port off : Nat) (value : DWord), s.runs = true → inCrib off = false → csRoom s port = true → csOpen s port = true →
    (off % 4 = 0 → regAt s.view off = none → (off % 8 = 0 ∨ ∀ r, regAt s.view (off - 4) = some r → r.wide = false) →
      exec (.rcCounterRead port off 4) s = .next (answered s port 0#64))
    ∧ (off % 4 = 0 → regAt s off = none → (off % 8 = 0 ∨ ∀ r, regAt s (off - 4) = some r → r.wide = false) →
      exec (.registerWrite port off 4 value) s = .next (answered s port 0#64))
    ∧ (off % 8 = 0 → regAt s.view off = none → regAt s.view (off + 4) = none →
      exec (.rcCounterRead port off 8) s = .next (answered s port 0#64))
    ∧ (off % 8 = 0 → regAt s off = none → regAt s (off + 4) = none →
      exec (.registerWrite port off 8 value) s = .next (answered s port 0#64))

/-- R310: a control-space write to a register that was already written in the same GCLK counts in ENG_COLLIDE_CNT, which ends
the GCLK saturated (R20, EmptyQueueIsOneCycle). -/
def Claims.WritesCollide : Prop :=
  ∀ (s : State) (port off : Nat),
    (off ∈ s.clk.writes → (noteWrite s port off).eng.collide = s.eng.collide + 1)
    ∧ (off ∉ s.clk.writes → (noteWrite s port off).eng.collide = s.eng.collide)
    ∧ (noteWrite s port off).clk.writes = off :: s.clk.writes

/-- R9, R420, R421: a write by a mesh port, of any size and offset, has one response, with its cq_id and cr_data zero, behind those that the
port still holds; a port that holds eight accepts no access (what becomes of it is the model's choice, log 38). -/
def Claims.AccessesAnswered : Prop :=
  ∀ (s : State) (port off size : Nat) (value : DWord), s.runs = true → port < s.cfg.bays → s.cs.cur = false →
    (let l := s.cs.resp.getD [] port
     let n := s.cs.id.getD 0 port
     let u := csWrite s port off size value
     (csOpen s port = true →
       u.cs.resp.getD [] port = l ++ [({ id := Config.cqId port n % 1024, data := 0#64, done := true } : CsResp)]
       ∧ u.cs.id.getD 0 port = n + 1
       ∧ ∀ k, k ≠ port → u.cs.resp.getD [] k = s.cs.resp.getD [] k ∧ u.cs.id.getD 0 k = s.cs.id.getD 0 k)
     ∧ (8 ≤ l.length → exec (.rcCounterRead port off size) s = .next s ∧ exec (.registerWrite port off size value) s = .next s))

/-- Table 7.5, R261, R262, R264, R310, R421: a mesh port's write that other ports' writes compete with, that follows one of its own port, or
that a debug access holds back waits for the rounds of the control-space write arbiter. A round grants at most four ports, in NO_HOLD mode,
and all that ask when no more than four do; the writes granted in a GCLK are applied in rising port number, and the responses that are ready
leave in the order of acceptance. -/
def Claims.WriteArbiter : Prop :=
  (∀ (s : State) (i : Instr) (port : Nat), csPort i = some port → s.runs = true → csOpen s port = false →
    (∀ off size v, i = .cribWrite port off size v → off < 0x80000) → (∀ off v, i = .halfWrite64 port off v → isHalf s off = true) →
    exec i s = .next (if csRoom s port then { s with cs := { s.cs.accept port false 0#64 with wait := s.cs.wait ++ [i] } } else s))
  ∧ (∀ s : State, s.cfg.grantHold = false → (∀ x ∈ s.cs.arb, x.2.hold = false) →
      (csRound s).1.length ≤ 4 ∧ (∀ p ∈ (csRound s).1, p ∈ csAsking s) ∧ ∀ x ∈ (csRound s).2, x.2.hold = false)
  ∧ (∀ s : State, s.runs = true → s.dbg.busy = false → s.clk.ports = [] → s.cs.late = [] → (csAsking s).length ≤ 4 →
      csPass s =
        (let t := each { s with cs.cur := true, cs.arb := (csRound s).2 } (csAsking s) csServe
         each { t with cs.cur := false } t.cs.resp.keys csPresent))
  ∧ (∀ (s : State) (port : Nat) (l : List CsResp) (x y : CsResp) (r : List CsResp), s.cs.resp.getD [] port = l ++ x :: y :: r →
      (∀ z ∈ l, z.done = true) → x.done = true → y.done = false →
      (csPresent s port).cs.resp.getD [] port = y :: r ∧ (csPresent s port).cs.last.getD y port = x
      ∧ { csPresent s port with cs.resp := s.cs.resp, cs.last := s.cs.last } = s)

/-- Reads of registers, RC fields among them, and writes to registers without a row of their own (R9 to R19, R456). -/
def Obligations.Registers : Prop := Claims.RegisterReads ∧ Claims.RegisterWrites ∧ Claims.NoRegisterThere ∧ Claims.WritesCollide
  ∧ Claims.AccessesAnswered ∧ Claims.WriteArbiter

/-! ### Work queues (08) -/

/-- R283, R313, R314: a strike of an ENABLED queue owes an index-block read, which is issued at the end of the GCLK, or in the GCLK after an
outstanding one returns, so that the strikes of one GCLK come to one read; a strike of any other queue is ignored; Q_STRIKE of queue 0 and
ADM_STRIKE do the same for the admin queue. Completes: admStrike, qStrike. -/
def Claims.Strikes : Prop :=
  ∀ (s : State) (port q : Nat),
    (let adm := { noteWrite s port 0x20C with adm := if s.adm.state = .enabled then { s.adm with strikePend := true } else s.adm }
     (1 ≤ q → Reaches s port (qReg q 0) → (s.getQ q).state = .enabled →
       exec (.qStrike port q) s = .next ((noteWrite s port (qReg q 0)).setQ q { s.getQ q with strikePend := true }))
     ∧ (1 ≤ q → Reaches s port (qReg q 0) → (s.getQ q).state ≠ .enabled →
       exec (.qStrike port q) s = .next (noteWrite s port (qReg q 0)))
     ∧ (Reaches s port 0x20C → exec (.qStrike port 0) s = .next adm ∧ exec (.admStrike port) s = .next adm))

/-- R283, R313, R318, R390: the index-block read that a queue owes is issued, once the front end has room, while no other is outstanding,
the head write of CREATE_QUEUE has gone, and the engine is not in the safe state; one owed by a queue that is no longer ENABLED is
dropped. That it issues at the end of a GCLK is the model's choice (log 40), the due time fixed at the issue its reading (log 18). -/
def Claims.OwedReads : Prop :=
  ∀ (s : State) (q : Nat),
    (let y := s.getQ q
     let due := s.clk.gclk + 700 * s.eng.fetchTimeout.toNat
     (y.strikePend = false → readPass s q = s)
     ∧ (y.strikePend = true → y.state ≠ .enabled → readPass s q = s.setQ q { y with strikePend := false })
     ∧ (y.strikePend = true → y.state = .enabled →
         ((y.idxRead.isSome = true ∨ s.eng.state = .safe ∨ y.created = true) → readPass s q = s)
         ∧ (y.idxRead = none → s.eng.state ≠ .safe → y.created = false →
             (∀ t, feTry s (.index q) false y.idxBase 8 = some t →
               readPass s q = t.setQ q { y with strikePend := false, idxRead := some due })
             ∧ (feTry s (.index q) false y.idxBase 8 = none → readPass s q = s)))
     ∧ (s.adm.strikePend = true → s.adm.state = .enabled → s.adm.idxRead = none → s.eng.state ≠ .safe →
         ∀ t, feTry s .admIndex false s.adm.idxBase.toNat 8 = some t →
           admReadPass s = { t with adm := { s.adm with strikePend := false, idxRead := some due } })
     ∧ ((s.adm.strikePend = false ∨ (s.adm.state = .enabled ∧ (s.adm.idxRead.isSome = true ∨ s.eng.state = .safe))) → admReadPass s = s))

/-- R283, R285, R287, R294, R408: an index-block read of an ENABLED queue that returns sets P to a producer index ahead of P
within the ring,
leaves P for one at or behind it, and stops the queue under cause 0x0A for any other, under 9 for an error or poison of its block; of a
queue that is not ENABLED it is discarded with the mark. Completes: indexBlockReadReturn. -/
def Claims.IndexBlockReturn : Prop :=
  ∀ (s : State) (q : Nat) (r : Resp), s.runs = true → 1 ≤ q → (s.getQ q).idxRead.isSome = true →
    (let y := s.getQ q
     let size := 2 ^ y.k
     let d := (y.p + 2 * size - y.h % (2 * size)) % (2 * size)
     let p := leNat (sliceBytes r.data 0 4)
     let d' := (p + 2 * size - y.h % (2 * size)) % (2 * size)
     let good := r.sts = 0#2 ∧ r.psn.getLsbD 0 = false
     let z := { y with idxRead := none }
     let t := feDone s (.index q)
     (y.state ≠ .enabled → exec (.indexBlockReadReturn q r) s = .next (t.setQ q { y with idxRead := none, strikePend := false }))
     ∧ (y.state = .enabled → good → p < 2 * size → d < d' → d' ≤ size →
       exec (.indexBlockReadReturn q r) s = .next ((t.setQ q z).setQ q { z with p := p }))
     ∧ (y.state = .enabled → good → p < 2 * size → d' ≤ d →
       ∃ u, exec (.indexBlockReadReturn q r) s = .next u ∧ u.getQ q = z ∧ (∀ k, k ≠ q → u.getQ k = s.getQ k) ∧ { u with qs := s.qs } = t)
     ∧ (y.state = .enabled → good → (2 * size ≤ p ∨ (d < d' ∧ size < d')) →
       exec (.indexBlockReadReturn q r) s = .next (queueError (t.setQ q z) q y.f 0x0A 0))
     ∧ (y.state = .enabled → (r.sts ≠ 0#2 ∨ r.psn.getLsbD 0 = true) →
       exec (.indexBlockReadReturn q r) s = .next (queueError (t.setQ q z) q y.f 9 0)))

/-- Strikes (R283, R313) and the answers of index-block reads (R284). -/
def Obligations.StrikesAndIndexReads : Prop := Claims.Strikes ∧ Claims.OwedReads ∧ Claims.IndexBlockReturn

/-- R294: a queue that stops is in ERROR with the position and the cause latched, has nothing fetched or being fetched at or behind that
position, nor behind an entry that was to be fetched again (log 16), and the event of the queue-error note, source 0x13, is among those of
its GCLK (EventRecord says how they are recorded); every other queue keeps its state, and what is dispatched runs on. -/
def Claims.QueueStops : Prop :=
  ∀ (s : State) (q pos cause off : Nat),
    (let y := s.getQ q
     let d (p : Nat) : Nat := (p + 2 * 2 ^ y.k - y.h % (2 * 2 ^ y.k)) % (2 * 2 ^ y.k)
     let u := queueError s q pos cause off
     (u.getQ q).state = .error ∧ (u.getQ q).errIndex = pos ∧ (u.getQ q).errCause = cause ∧ (u.getQ q).errOff = off
     ∧ (u.getQ q).h = y.h ∧ (u.getQ q).p = y.p
     ∧ (∀ x ∈ (u.getQ q).win, d pos ≤ d x.pos → x.st = .dispatched ∨ x.st = .retired ∨ x.st = .aborted)
     ∧ (∀ x ∈ y.win, (x.st = .dispatched ∨ x.st = .retired ∨ x.st = .aborted ∨ (d x.pos < d pos ∧ ∀ r ∈ y.refetch, d x.pos < d r.1)) →
         x ∈ (u.getQ q).win)
     ∧ (∀ x ∈ (u.getQ q).fetches, d x.pos < d pos) ∧ (u.getQ q).refetch = []
     ∧ (∀ k, k ≠ q → u.getQ k = s.getQ k)
     ∧ u.flt = { s.flt with evs := s.flt.evs ++ [{ src := 0x13, sub := cause, inst := some (q, pos), detail := off }] }
     ∧ u.still = s.still ∧ u.tal = s.tal ∧ u.reads = s.reads ∧ u.writes = s.writes)

/-- R286, R306, R309: an ENABLED queue with something announced issues a fetch of one entry, or of two adjacent ones, once the front end has
room, and f moves past them; a cached entry is taken without a request, to be checked; entries that INVALIDATE_ENTRIES discarded are fetched
again first, without f, in the places among the four that are kept for them; one behind a LINK that is still to be taken waits for it, and a
queue in ERROR fetches none (the model's reading, log 44). The due time fixed at the issue is the model's reading (log 18). Completes:
entryFetch. -/
def Claims.EntryFetches : Prop :=
  ∀ (s : State) (q : Nat) (two : Bool), s.runs = true →
    (let y := s.getQ q
     let n := if two then 2 else 1
     let a := if y.fetchAddr + 128 = y.ringBase + 128 * 2 ^ y.k then y.ringBase else y.fetchAddr + 128
     let due := s.clk.gclk + 700 * s.eng.fetchTimeout.toNat
     (∀ t, mayFetch s q = true → y.refetch = [] → y.cachedAt y.f = none → y.buffered + n ≤ 4 → n ≤ ringDist y.size y.f y.p →
        (two = true → a = y.fetchAddr + 128 ∧ y.cachedAt ((y.f + 1) % (2 * 2 ^ y.k)) = none) →
        feTry s (.entries q y.f) false y.fetchAddr (128 * n) = some t →
       exec (.entryFetch q two) s = .next (t.setQ q { y with
         fetches := y.fetches ++ [{ pos := y.f, n, addr := y.fetchAddr, due }]
         f := (y.f + n) % (2 * 2 ^ y.k)
         fetchAddr := if two then y.nextAddr a else a }))
     ∧ (∀ raw, mayFetch s q = true → y.refetch = [] → y.cachedAt y.f = some raw → y.buffered < 4 → two = false →
       ∃ v, exec (.entryFetch q two) s = .next (recheck v q)
         ∧ (v.getQ q).slotAt y.f = some { pos := y.f, addr := y.fetchAddr, raw, st := .checking, tick := s.tick.count.toNat
                                          at_ := s.clk.gclk }
         ∧ (v.getQ q).f = (y.f + 1) % (2 * 2 ^ y.k) ∧ (v.getQ q).fetchAddr = a ∧ (v.getQ q).fetches = y.fetches
         ∧ (∀ k, k ≠ q → v.getQ k = s.getQ k) ∧ { v with qs := s.qs } = s)
     ∧ (∀ pos addr r, y.refetch = (pos, addr) :: r → (y.state ≠ .enabled ∨ y.linkBefore pos = true) → exec (.entryFetch q two) s = .next s)
     ∧ (∀ pos addr r t, y.refetch = (pos, addr) :: r → y.state = .enabled → s.eng.state ≠ .safe → y.linkBefore pos = false →
        (two = true → r.head? = some ((pos + 1) % (2 * 2 ^ y.k), addr + 128)) →
        feTry s (.entries q pos) false addr (128 * n) = some t →
       exec (.entryFetch q two) s = .next (t.setQ q { y with
         fetches := y.fetches ++ [{ pos, n, addr, due }], refetch := if two then r.drop 1 else r })))

/-- R287, R293, R408: fetched entries that return good take their places in the window, to be checked; an error or poison of one of their
blocks stops the queue under cause 9 at the first position of the read; a read not answered by its time stops it under cause 8; the response
to a fetch that was discarded is dropped, that of the live one coming first (the model's choice, log 40). Completes: entryFetchReturn,
fetchTimeout. -/
def Claims.FetchReturns : Prop :=
  ∀ (s : State) (q pos : Nat) (r : Resp), s.runs = true →
    (let y := s.getQ q
     let t := feDone s (.entries q pos)
     let left := t.setQ q { y with fetches := y.fetches.filter fun x => x.pos != pos }
     (∀ f, (y.fetches.find? fun x => x.pos == pos) = some f →
       (r.sts = 0#2 → r.psn.toNat % 2 ^ (2 * f.n) = 0 →
         ∃ v, exec (.entryFetchReturn q pos r) s = .next (recheck v q)
           ∧ (v.getQ q).slotAt pos = some { pos, addr := f.addr, raw := leNat (sliceBytes r.data 0 128), st := .checking
                                            tick := s.tick.count.toNat, at_ := s.clk.gclk }
           ∧ (f.n = 2 → (v.getQ q).slotAt ((pos + 1) % (2 * 2 ^ y.k))
               = some { pos := (pos + 1) % (2 * 2 ^ y.k), addr := f.addr + 128, raw := leNat (sliceBytes r.data 128 128), st := .checking
                        tick := s.tick.count.toNat, at_ := s.clk.gclk })
           ∧ (v.getQ q).fetches = y.fetches.filter (fun x => x.pos != pos)
           ∧ (∀ k, k ≠ q → v.getQ k = s.getQ k) ∧ { v with qs := s.qs } = t)
       ∧ ((r.sts ≠ 0#2 ∨ r.psn.toNat % 2 ^ (2 * f.n) ≠ 0) → exec (.entryFetchReturn q pos r) s = .next (queueError left q pos 9 0))
       ∧ (1 ≤ q → f.due ≤ s.clk.gclk → exec (.fetchTimeout q true pos) s = .next (queueError left q pos 8 0)))
     ∧ ((y.fetches.find? fun x => x.pos == pos) = none →
         exec (.entryFetchReturn q pos r) s = .next (feDone s (.entries q pos) true))
     ∧ (∀ g, 1 ≤ q → y.idxRead = some g → g ≤ s.clk.gclk → y.state = .enabled →
         exec (.fetchTimeout q false pos) s
           = .next (queueError ((feDone s (.index q)).setQ q { y with idxRead := none, strikePend := false }) q y.f 8 0)))

/-- Entry fetches and their answers (R285 to R287), and how a queue stops in ERROR (R293). -/
def Obligations.FetchesAndStops : Prop := Claims.QueueStops ∧ Claims.EntryFetches ∧ Claims.FetchReturns

/-- R278, R288 to R290: a push of 256 bytes at offset 0 or 0x100 of an ENABLED queue's window announces two entries or one; they are taken
when f equals P and the buffer has room, and are to be fetched otherwise; more than the ring holds stops the queue under 0x0A; any
other write to the window, one during the self-test (R439), and a push to a queue that is not ENABLED, is ignored. Each is answered.
Completes: push. -/
def Obligations.Pushes : Prop :=
  ∀ (s : State) (port q off : Nat) (data : List Byte), s.runs = true → csOpen s port = true →
    (let y := s.getQ q
     let n := if off = 0 then 2 else 1
     let ok := (off = 0 ∨ off = 256) ∧ data.length = 256 ∧ 1 ≤ q ∧ y.state = .enabled ∧ testShut s port (0x1000000 + 512 * q) = false
     let p := (y.p + n) % (2 * 2 ^ y.k)
     let t := answered (csGrant s port) port 0#64
     let addr := match y.win.find? fun x => x.st == .link with | some x => eTarget x.raw | none => y.fetchAddr
     (ok → ringDist y.size y.h y.p + n ≤ y.size → y.f = y.p → y.buffered + n ≤ 4 →
       ∃ v, exec (.push port q off data) s = .next (recheck v q)
         ∧ (v.getQ q).p = p ∧ (v.getQ q).f = p
         ∧ (v.getQ q).slotAt y.p = some { pos := y.p, addr, raw := leNat (data.take 128), st := .checking
                                          tick := s.tick.count.toNat, at_ := s.clk.gclk, pushed := true }
         ∧ (off = 0 → (v.getQ q).slotAt ((y.p + 1) % (2 * 2 ^ y.k)) = some {
             pos := (y.p + 1) % (2 * 2 ^ y.k), addr := y.nextAddr addr, raw := leNat (data.drop 128), st := .checking
             tick := s.tick.count.toNat, at_ := s.clk.gclk, pushed := true })
         ∧ (∀ k, k ≠ q → v.getQ k = s.getQ k) ∧ { v with qs := s.qs } = t)
     ∧ (ok → ringDist y.size y.h y.p + n ≤ y.size → (y.f ≠ y.p ∨ 4 < y.buffered + n) →
       exec (.push port q off data) s = .next (t.setQ q { y with p }))
     ∧ (ok → y.size < ringDist y.size y.h y.p + n → exec (.push port q off data) s = .next (queueError t q y.f 0x0A 0))
     ∧ (¬ ok → exec (.push port q off data) s = .next t))

/-- R296 to R299, R304, R392, Table 8.5: ENABLE of a DISABLED queue, or of one in ERROR with nothing left, resumes at h with f and the fetch
address at the head's and an index-block read owed; it is refused, and counted, in DRAINING, in ERROR with work left and in the safe state;
it does nothing to an ABSENT or ENABLED queue. DISABLE of an ENABLED queue discards what is fetched, and ABORT also aborts what is
dispatched; both leave h, and the queue is DRAINING, or DISABLED when nothing is left. ABORT of a DRAINING queue aborts what is still
dispatched; of one in ERROR with work left it aborts that and discards what is fetched, and the queue stays in ERROR. An instruction that is
complete still delivers its arrival. Completes: enable, disable, abort. -/
def Claims.QueueControl : Prop :=
  ∀ (s : State) (port q : Nat), 1 ≤ q → Reaches s port (qReg q 0x14) →
    (let y := s.getQ q
     let t := noteWrite s port (qReg q 0x14)
     ((y.state = .disabled ∨ (y.state = .error ∧ errorIdle s q = true)) → s.eng.state ≠ .safe →
       ∃ u, exec (.enable port q) s = .next u
         ∧ u.getQ q = { y with state := .enabled, f := y.h, fetchAddr := y.headAddr, win := [], fetches := [], refetch := []
                               refused := false, strikePend := true }
         ∧ (∀ k, k ≠ q → u.getQ k = s.getQ k) ∧ { u with qs := s.qs } = t)
     ∧ ((y.state = .draining ∨ (y.state = .error ∧ errorIdle s q = false) ∨ ((y.state = .disabled ∨ y.state = .error) ∧ s.eng.state = .safe)) →
       exec (.enable port q) s = .next (pulseOwner (t.setQ q { y with refused := true, refusedCnt := y.refusedCnt + 1 }) q 5))
     ∧ ((y.state = .absent ∨ y.state = .enabled) → exec (.enable port q) s = .next t)
     ∧ (y.state = .enabled →
       ∃ u v, exec (.disable port q) s = .next u ∧ exec (.abort port q) s = .next v
         ∧ ((u.getQ q).state = .draining ∨ (u.getQ q).state = .disabled) ∧ ((v.getQ q).state = .draining ∨ (v.getQ q).state = .disabled)
         ∧ (u.getQ q).h = y.h ∧ (v.getQ q).h = y.h ∧ (u.getQ q).fetches = [] ∧ (v.getQ q).fetches = []
         ∧ (∀ x ∈ (u.getQ q).win, x.st = .dispatched ∨ x.st = .retired ∨ x.st = .aborted)
         ∧ (∀ x ∈ (v.getQ q).win, x.st = .retired ∨ x.st = .aborted
             ∨ (x.st = .dispatched ∧ ∃ f ∈ s.flights, f.q = q ∧ f.pos = x.pos ∧ f.stage = .complete))
         ∧ (∀ k, k ≠ q → u.getQ k = s.getQ k ∧ v.getQ k = s.getQ k)
         ∧ u.still = t.still ∧ v.still = t.still)
     ∧ (y.state = .draining →
       ∃ v, exec (.abort port q) s = .next v ∧ ((v.getQ q).state = .draining ∨ (v.getQ q).state = .disabled) ∧ (v.getQ q).h = y.h
         ∧ (∀ x ∈ (v.getQ q).win, x.st = .dispatched → ∃ f ∈ s.flights, f.q = q ∧ f.pos = x.pos ∧ f.stage = .complete)
         ∧ (∀ k, k ≠ q → v.getQ k = s.getQ k) ∧ v.still = t.still)
     ∧ (y.state = .error → (∃ x ∈ y.win, x.st = .dispatched) →
       ∃ v, exec (.abort port q) s = .next v ∧ (v.getQ q).state = .error ∧ (v.getQ q).h = y.h
         ∧ (v.getQ q).errIndex = y.errIndex ∧ (v.getQ q).errCause = y.errCause ∧ (v.getQ q).errOff = y.errOff
         ∧ (v.getQ q).fetches = [] ∧ (v.getQ q).refetch = []
         ∧ (∀ x ∈ (v.getQ q).win, x.st = .retired ∨ x.st = .aborted
             ∨ (x.st = .dispatched ∧ ∃ f ∈ s.flights, f.q = q ∧ f.pos = x.pos ∧ f.stage = .complete))
         ∧ (∀ k, k ≠ q → v.getQ k = s.getQ k) ∧ v.still = t.still)
     ∧ (y.state = .error → errorIdle s q = true → exec (.abort port q) s = .next (recordCuts t []))
     ∧ (y.state ≠ .enabled → exec (.disable port q) s = .next t)
     ∧ ((y.state = .absent ∨ y.state = .disabled) → exec (.abort port q) s = .next t))

/-- R298, R302, R303, R318: a head that has advanced is written to bytes 47:32 of the index block, once the front end has room
and no other write to those bytes is out (R411), with its due time fixed then (the model's reading, log 18); the answer
to a head write ends it, a failed or unanswered one raises source 9 with its address, and a DRAINING queue with no work left becomes
DISABLED, when its last retirement moved h with the answer to the head write that follows; for queue 0 the same rows answer the admin
queue's writes. Completes: headWrite, headWriteResponse, queueStructureWriteTimeout. -/
def Claims.HeadWrites : Prop :=
  ∀ (s : State) (q : Nat), s.runs = true →
    (let y := s.getQ q
     ((∃ w ∈ y.headWrs, w.addr = y.idxBase + 32) → exec (.headWrite q) s = .next s)
     ∧ (∀ t, y.headDue.isSome = true → s.eng.state ≠ .safe → (∀ w ∈ y.headWrs, w.addr ≠ y.idxBase + 32) → feTry s (.head q) true (y.idxBase + 32) 16 = some t →
       exec (.headWrite q) s = .next (t.setQ q { y with headDue := none, created := false, headWrs := y.headWrs ++ [{
         addr := y.idxBase + 32, data := leBytes y.h 4 ++ leBytes 0 4 ++ leBytes y.headAddr 8
         due := s.clk.gclk + 700 * s.eng.fetchTimeout.toNat }] }))
     ∧ (∀ w r, 1 ≤ q → y.headWrs = w :: r →
       (let t := (feDone s (.head q)).setQ q { y with headWrs := r, pub := y.pub && (y.headDue.isSome || !r.isEmpty) }
        exec (.headWriteResponse q 0#2) s = .next (settle t q)
        ∧ (∀ sts, sts ≠ 0#2 → exec (.headWriteResponse q sts) s = .next (settle (raise t { src := 9, detail := w.addr }) q))
        ∧ (w.due ≤ s.clk.gclk →
          exec (.queueStructureWriteTimeout q) s = .next (settle (raise t { src := 9, detail := w.addr }) q))))
     ∧ (∀ w c, s.adm.cplWr = some w → s.adm.cmd = some c →
       (let t := { feDone s .admCpl with adm.cplWr := none, adm.cmd := some { c with phase := .written } }
        exec (.headWriteResponse 0 0#2) s = .next t
        ∧ (w.due ≤ s.clk.gclk → exec (.queueStructureWriteTimeout 0) s = .next (raise t { src := 9, detail := w.addr })))))
    ∧ (((settle s q).getQ q).state = (if (s.getQ q).state = .draining ∧ (∀ x ∈ (s.getQ q).win, x.st ≠ .dispatched)
          ∧ (∀ f ∈ s.flights, f.rx = none → f.q ≠ q) ∧ (s.getQ q).pub = false
        then .disabled else (s.getQ q).state))

/-- Q_CTRL (R296 to R299), head writes and their answers (R302 to R304). -/
def Obligations.QueueControlAndHeads : Prop := Claims.QueueControl ∧ Claims.HeadWrites

/-- R270, R300, R373, R426: when a core's mask bit rises, the offer to the core is withdrawn, each source active at it becomes inactive,
and pending if it is enabled, and every queue it owns is aborted: none stays ENABLED; when it falls, the mask ends and what may issue
does. Completes: ownerMaskRise, coreMaskFall. -/
def Claims.OwnerMasks : Prop :=
  ∀ (s : State) (pwr : Bool) (core : Nat), s.runs = true →
    (core ∉ (if pwr then s.masks.pwr else s.masks.rst) →
      ∃ u, exec (.ownerMaskRise pwr core) s = .next u
        ∧ u.masks = (if pwr then { s.masks with pwr := core :: s.masks.pwr } else { s.masks with rst := core :: s.masks.rst })
        ∧ u.sig.offer.getD none core = none ∧ (∀ c, c ≠ core → u.sig.offer.getD none c = s.sig.offer.getD none c)
        ∧ (∀ q, (s.getQ q).owner = core → (u.getQ q).state ≠ .enabled)
        ∧ (∀ q, (s.getQ q).owner ≠ core → u.getQ q = s.getQ q)
        ∧ { u.still with masks := s.masks } = s.still)
    ∧ (∃ v, exec (.coreMaskFall pwr core) s = .next (pumpAll v)
        ∧ v.masks = (if pwr then { s.masks with pwr := s.masks.pwr.filter (· != core) }
            else { s.masks with rst := s.masks.rst.filter (· != core) })
        ∧ { v with masks := s.masks } = s)

/-- R373: a source active at a core whose mask bit rises becomes inactive, and pending if it is enabled; the sources active elsewhere,
and those that are not active, keep their activity. -/
def Claims.MaskedCoreSources : Prop :=
  ∀ (s : State) (pwr : Bool) (core n : Nat), s.runs = true → core ∉ (if pwr then s.masks.pwr else s.masks.rst) →
    ∃ u, exec (.ownerMaskRise pwr core) s = .next u
      ∧ ((s.getS n).active = true → (s.getS n).core = core → (u.getS n).active = false
          ∧ ((s.getS n).cfg.getLsbD 31 = true → (u.getS n).pending = true))
      ∧ (((s.getS n).active = false ∨ (s.getS n).core ≠ core) → (u.getS n).active = (s.getS n).active)

/-- R272: a real-time queue whose consumption has reached its budget of the tick is out of budget until the next tick; each GCLK it
consumes one stream-cycle for each context that its dispatched, unretired parts hold, and an ordinary queue consumes none. Completes:
rtBudgetExhausted. -/
def Claims.RealTimeBudget : Prop :=
  ∀ (s : State) (q : Nat), s.runs = true →
    ((s.getQ q).rtBudget ≠ 0 → (s.getQ q).rtOut = false → 256 * (s.getQ q).rtBudget ≤ (s.getQ q).rtUsed →
      exec (.rtBudgetExhausted q) s = .next (s.setQ q { s.getQ q with rtOut := true }))
    ∧ ((s.getQ q).rtUsed < 256 * (s.getQ q).rtBudget → exec (.rtBudgetExhausted q) s = .next s)
    ∧ (rtPass s).getQ q = { s.getQ q with rtUsed := (s.getQ q).rtUsed + (if (s.getQ q).rtBudget = 0 then 0 else ctxHeld s q) }
    ∧ { rtPass s with qs := s.qs } = s

/-- Core masks (R300, R373, R426) and real-time budgets (R272). -/
def Obligations.OwnersAndBudgets : Prop := Claims.OwnerMasks ∧ Claims.MaskedCoreSources ∧ Claims.RealTimeBudget

/-! ### The admin queue (08) -/

/-- R306 to R309, R318, R355, Tables 8.6 to 8.8: what each admin command that passes its checks does in service, with the status and the
result that its completion will carry; which registers a command counts as written in its GCLK (R310), and that an index read and head
writes of the number that are still out stay, are the model's choices (log 19, log 44), and so is how INVALIDATE_ENTRIES discards and
fetches again (log 16). A write of the granger's follows the mesh ports' of its GCLK (R310), and BIND_TALLY's binding waits for the GCLK's
end (R353). CREATE_QUEUE, DESTROY_QUEUE, SET_CLASS, SET_RT, INVALIDATE_ENTRIES, BIND_TALLY and QUERY. Completes: createQueue, destroyQueue,
setClass, setRt, invalidateEntries, bindTally, query. -/
def Obligations.AdminCommands : Prop :=
  ∀ (s : State) (c : AdmCmd), s.eng.state = .service → s.eng.gHeld = false → s.eng.gFaultAt = none → s.adm.cmd = some c → c.phase = .ready →
    (let n := fld c.raw 8 0 16
     let y := s.getQ n
     let ends (u : State) (status : Nat) : Prop := u.adm = { s.adm with cmd := some { c with phase := .done status 0 } }
     let rejects (i : Instr) (status : Nat) : Prop := exec i s = .next { s with adm.cmd := some { c with phase := .done status 0 } }
     let only (u : State) (z : Queue) : Prop := u.getQ n = z ∧ ∀ k, k ≠ n → u.getQ k = s.getQ k
     let caches := (s.qs.filter fun (_, z) => z.state != .absent && z.cached).length
     let retired := (∀ x ∈ y.win, x.st ≠ .dispatched) ∧ ∀ f ∈ s.flights, f.rx = none → f.q = n →
       ∃ x, y.slotAt f.pos = some x ∧ (x.st = .checking ∨ x.st = .fetched ∨ x.st = .link)
     (fld c.raw 2 0 8 = 1 → csMeshDue s = false →
       (y.state = .absent → (bitAt c.raw 88 = true → caches < 16) → ∃ u, exec .createQueue s = .next u ∧ ends u 0
         ∧ only u { state := .enabled, cached := bitAt c.raw 88, k := fld c.raw 10 0 8, owner := fld c.raw 12 0 16, cls := fld c.raw 14 0 3
                    ringBase := fld c.raw 16 0 64, idxBase := fld c.raw 24 0 64, headAddr := fld c.raw 16 0 64, fetchAddr := fld c.raw 16 0 64
                    headWrs := y.headWrs, idxRead := y.idxRead, headDue := some s.clk.gclk, created := true, strikePend := true }
         ∧ { u with adm := s.adm, qs := s.qs } = noteReg (noteReg (noteReg s (qReg n 0x20)) (qReg n 0x28)) (qReg n 0x30))
       ∧ (y.state ≠ .absent → rejects .createQueue 0x11)
       ∧ (y.state = .absent → bitAt c.raw 88 = true → 16 ≤ caches → rejects .createQueue 0x14))
     ∧ (fld c.raw 2 0 8 = 2 →
       (y.state = .absent → rejects .destroyQueue 0x10)
       ∧ ((y.state = .disabled ∨ (y.state = .error ∧ retired)) → ∃ u, exec .destroyQueue s = .next u ∧ ends u 0
         ∧ only u { idxRead := y.idxRead, headWrs := y.headWrs } ∧ (∀ f ∈ u.flights, f ∈ s.flights)
         ∧ { u with adm := s.adm, qs := s.qs, fe := s.fe, flights := s.flights, bay := s.bay } = s)
       ∧ ((y.state = .enabled ∨ y.state = .draining ∨ (y.state = .error ∧ ¬ retired)) → rejects .destroyQueue 0x12))
     ∧ (fld c.raw 2 0 8 = 3 → csMeshDue s = false →
       (y.state = .absent → rejects .setClass 0x10)
       ∧ (y.state ≠ .absent → ∃ u, exec .setClass s = .next u ∧ ends u 0 ∧ only u { y with cls := fld c.raw 10 0 3 }
         ∧ { u with adm := s.adm, qs := s.qs } = noteReg s (qReg n 0x30)))
     ∧ (fld c.raw 2 0 8 = 4 → csMeshDue s = false →
       (y.state = .absent → rejects .setRt 0x10)
       ∧ (y.state ≠ .absent → ∃ u used, exec .setRt s = .next u ∧ used = (if y.rtBudget = 0 then 0 else y.rtUsed) ∧ ends u 0
         ∧ only u { y with rtBudget := fld c.raw 12 0 32, rtUsed := used, rtOut := decide (256 * fld c.raw 12 0 32 ≤ used) }
         ∧ { u with adm := s.adm, qs := s.qs } = noteReg s (qReg n 0x30)))
     ∧ (fld c.raw 2 0 8 = 6 →
       (let first := fld c.raw 10 0 16
        let count := fld c.raw 12 0 16
        let named (pos : Nat) : Prop := count = 0 ∨ (first ≤ pos % 2 ^ y.k ∧ pos % 2 ^ y.k < first + count)
        let undone (x : Slot) : Prop := x.st = .checking ∨ x.st = .fetched ∨ x.st = .link
        let place (f : Fetch) (i : Nat) : Nat := (f.pos + i) % (2 * 2 ^ y.k)
        let hit (f : Fetch) : Prop := ∃ i, i < f.n ∧ named (place f i)
        (y.state = .absent → rejects .invalidateEntries 0x10)
        ∧ (y.state ≠ .absent → 2 ^ y.k < first + count → rejects .invalidateEntries 3)
        ∧ (y.state ≠ .absent → first + count ≤ 2 ^ y.k → y.cached = false → rejects .invalidateEntries 0)
        ∧ (y.state ≠ .absent → first + count ≤ 2 ^ y.k → y.cached = true → ∃ u, exec .invalidateEntries s = .next u ∧ ends u 0
          ∧ (∀ e ∈ (u.getQ n).cache, e ∈ y.cache ∧ ¬ (count = 0 ∨ (first ≤ e.1 ∧ e.1 < first + count)))
          ∧ (∀ e ∈ y.cache, ¬ (count = 0 ∨ (first ≤ e.1 ∧ e.1 < first + count)) → e ∈ (u.getQ n).cache)
          ∧ (∀ x ∈ (u.getQ n).win, x ∈ y.win ∧ ¬ (undone x ∧ named x.pos))
          ∧ (∀ x ∈ y.win, ¬ (undone x ∧ named x.pos) → x ∈ (u.getQ n).win)
          ∧ (∀ z ∈ (u.getQ n).refetch, z ∈ y.refetch ∨ (∃ x ∈ y.win, undone x ∧ named x.pos ∧ z = (x.pos, x.addr))
              ∨ ∃ f ∈ y.fetches, hit f ∧ ∃ i, i < f.n ∧ z = (place f i, f.addr + 128 * i))
          ∧ (∀ f ∈ y.fetches, hit f → ∀ i, i < f.n → ∃ z ∈ (u.getQ n).refetch, ringDist y.size y.h z.1 = ringDist y.size y.h (place f i))
          ∧ (∀ f ∈ (u.getQ n).fetches, f ∈ y.fetches ∧ ¬ hit f)
          ∧ (∀ f ∈ y.fetches, (∀ g ∈ y.fetches, g.pos = f.pos → ¬ hit g) → f ∈ (u.getQ n).fetches)
          ∧ (∀ x ∈ y.win, undone x → named x.pos → ∃ z ∈ (u.getQ n).refetch, ringDist y.size y.h z.1 = ringDist y.size y.h x.pos)
          ∧ ((u.getQ n).f, (u.getQ n).fetchAddr) = (y.f, y.fetchAddr)
          ∧ (u.getQ n).state = y.state ∧ (u.getQ n).h = y.h ∧ (u.getQ n).p = y.p
          ∧ (∀ k, k ≠ n → u.getQ k = s.getQ k) ∧ { u.still with adm := s.adm } = s.still)))
     ∧ (fld c.raw 2 0 8 = 7 → csMeshDue s = false → ∃ u, exec .bindTally s = .next u ∧ ends u 0
         ∧ u.tal.todo.getD {} (n % 16384) = { s.tal.todo.getD {} (n % 16384) with bind := some {
             target := fld c.raw 12 0 32, wdog := fld c.raw 24 0 32
             wake0 := { valid := bitAt c.raw 143, wire := fld c.raw 16 0 11 }
             wake1 := { valid := bitAt c.raw 159, wire := fld c.raw 18 0 11 }
             wake2 := { valid := bitAt c.raw 175, wire := fld c.raw 20 0 11 }
             wake3 := { valid := bitAt c.raw 191, wire := fld c.raw 22 0 11 } } }
         ∧ (∀ k, k ≠ n % 16384 → u.tal.todo.getD {} k = s.tal.todo.getD {} k)
         ∧ { u with adm := s.adm, tal.todo := s.tal.todo } = noteReg s (tReg (n % 16384) 0x1C))
     ∧ (csMeshDue s = true →
         ∀ i op, (i, op) ∈ [(Instr.createQueue, 1), (.setClass, 3), (.setRt, 4), (.bindTally, 7)] → fld c.raw 2 0 8 = op →
           exec i s = .next { s with cs.late := s.cs.late ++ [i] })
     ∧ (∀ (y : Tally) (x : TalDo) (b : Tally), x.bind = some b → y.prepare x = { b with
         sigEn := (y.prepare { x with bind := none }).sigEn, sigSrc := (y.prepare { x with bind := none }).sigSrc })
     ∧ (fld c.raw 2 0 8 = 9 →
       (n ≠ 0 → exec .query s = .next { s with adm.cmd := some { c with
         phase := .done 0 (qStateNum y.state + y.h * 2 ^ 3 + y.p * 2 ^ 20 + y.inflight * 2 ^ 37) } })
       ∧ (n = 0 → exec .query s = .next { s with adm.cmd := some { c with
         phase := .done 0 (qStateNum s.adm.state + s.adm.h * 2 ^ 3 + s.adm.p * 2 ^ 20) } })))

/-- R99, R102, R248, R318, R425, R447: LOAD_CODEBOOK reads its source once no outstanding entry names the slot and the front end has room,
and copies the 512 bytes into the slot, or answers 0x13 with the slot unchanged; in the safe state it keeps what has come, and goes on with
it in service (R390). Its due time is fixed at the issue (the model's reading, log 18), and the hold on every bay for an invalidation is the
model's choice (log 35). SHOOTDOWN_MAP and an invalidation request drop the matching entries of the bays that are awake at once and of the
others on waking, and complete once the requests then outstanding in the bays that held a match have been answered. Completes: loadCodebook,
loadCodebookDone, shootdownMap, shootdownComplete, atsInvalidationRequest. -/
def Obligations.CodebookLoadAndShootdown : Prop :=
  ∀ (s : State),
    (∀ c, s.eng.state = .service → s.eng.gHeld = false → s.eng.gFaultAt = none → s.adm.cmd = some c →
      (let slot := fld c.raw 8 0 16
       let due := s.clk.gclk + 700 * s.eng.fetchTimeout.toNat
       (c.phase = .ready → fld c.raw 2 0 8 = 5 →
         (let t : State := { s with crib.loading := some slot }
          (∀ v, cribInflight s slot = 0 → feTry t .codebook false (fld c.raw 16 0 64) 512 = some v →
            exec .loadCodebook s = .next { v with adm.cmd := some { c with phase := .reading due } })
          ∧ ((cribInflight s slot ≠ 0 ∨ feTry t .codebook false (fld c.raw 16 0 64) 512 = none) → exec .loadCodebook s = .next t)))
       ∧ (∀ r g, c.phase = .reading g →
         (let v := feDone s .codebook
          let failed := recheckAll { v with crib.loading := none, adm.cmd := some { c with phase := .done 0x13 0 } }
          (r.sts = 0#2 → r.psn = 0#5 → exec (.loadCodebookDone false r) s = .next (recheckAll { v with
             crib := { s.crib with loading := none, mem := s.crib.mem.writeAll (512 * slot) (sliceBytes r.data 0 512) }
             adm.cmd := some { c with phase := .done 0 0 } }))
          ∧ ((r.sts ≠ 0#2 ∨ r.psn ≠ 0#5) → exec (.loadCodebookDone false r) s = .next failed)
          ∧ (g ≤ s.clk.gclk → exec (.loadCodebookDone true r) s = .next failed)))
       ∧ (∀ bad data, c.phase = .read bad data → heldLoad s = loadDone s c bad data)
       ∧ (c.phase = .ready → fld c.raw 2 0 8 = 8 →
         ∃ rng, (rng.all = true ↔ fld c.raw 24 0 32 = 0) ∧ rng.lo = fld c.raw 16 0 64 ∧ rng.hi = fld c.raw 16 0 64 + 4096 * fld c.raw 24 0 32
           ∧ exec .shootdownMap s = .next { invalidate s none rng with adm.cmd := some { c with phase := .waiting } })))
    ∧ (∀ c r g, s.eng.state = .safe → s.eng.gHeld = false → s.eng.gFaultAt = none → s.adm.cmd = some c → c.phase = .reading g →
        exec (.loadCodebookDone false r) s = .next { feDone s .codebook with adm.cmd := some { c with
          phase := .read (r.sts != 0#2 || r.psn != 0#5) (sliceBytes r.data 0 512) } })
    ∧ (s.eng.state ≠ .service → heldLoad s = s)
    ∧ (∀ addr log2 itag, s.runs = true → (s.inv.filter fun v => v.itag.isSome).length < 32 →
        ∃ rng, (rng.all = true ↔ 52 ≤ log2) ∧ rng.lo = addr / 4096 * 4096 ∧ rng.hi = addr / 4096 * 4096 + 4096 * 2 ^ log2
          ∧ exec (.atsInvalidationRequest addr log2 itag) s = .next (invalidate s (some itag) rng))
    ∧ (∀ itag rng,
        (let hit (e : MapEnt) : Prop := rng.all = true ∨ (e.va < rng.hi ∧ rng.lo < e.va + pageBytes e.size)
         let asleep (b : Nat) : Prop := (s.getB b).pwr = .nap ∨ (s.getB b).pwr = .dormant
         let u := invalidate s itag rng
         (∀ b, ¬ asleep b → (∀ e ∈ (u.getB b).mapc, e ∈ (s.getB b).mapc ∧ ¬ hit e) ∧ ∀ e ∈ (s.getB b).mapc, ¬ hit e → e ∈ (u.getB b).mapc)
         ∧ (∀ b, asleep b → (u.getB b).mapc = (s.getB b).mapc ∧ (u.getB b).defer = (s.getB b).defer ++ [rng])
         ∧ (∀ b, b ∈ s.bay.keys → (u.getB b).emerg = true)
         ∧ (∃ v, u.inv = s.inv ++ [v] ∧ v.itag = itag
           ∧ (∀ r ∈ s.reads, ((r.bay, r.tag) ∈ v.reads ↔ ¬ asleep r.bay ∧ ∃ e ∈ (s.getB r.bay).mapc, hit e))
           ∧ (∀ w ∈ s.writes, ((w.bay, w.tag) ∈ v.writes ↔ ¬ asleep w.bay ∧ ∃ e ∈ (s.getB w.bay).mapc, hit e)))
         ∧ { u with bay := s.bay, inv := s.inv } = s))
    ∧ (∀ n v, s.runs = true → s.inv[n]? = some v → v.reads = [] → v.writes = [] → s.eng.gFaultAt = none →
        (∀ i, v.itag = some i → exec (.shootdownComplete n) s = .next { s with inv := s.inv.eraseIdx n })
        ∧ (∀ c, v.itag = none → s.adm.cmd = some c → exec (.shootdownComplete n) s
            = .next { s with inv := s.inv.eraseIdx n, adm.cmd := some { c with phase := .done 0 0 } }))

/-- R312, R316, R433: a write of 4 to 12 to ADM_RING_LOG2 while it is 0 enables the admin queue, at once in service with no command in
progress: its indices are clear, and its write of zero indices and its read of prod and cpl_cons are owed; else enabling waits. A write of 0
disables it: a command that is being fetched is discarded, the command in progress completes, and paused stays as it is. Completes:
adminQueueEnable, adminQueueDisable. -/
def Claims.AdminEnabling : Prop :=
  ∀ (s : State) (port : Nat) (value : Word), Reaches s port 0x208 →
    (let a := s.adm
     let n := value.toNat % 16
     (4 ≤ n → n ≤ 12 → a.ringLog2 = 0 → (s.eng.state = .service ∨ s.eng.state = .safe) → a.cmd = none →
       exec (.adminQueueEnable port value) s = .next { noteWrite s port 0x208 with
         adm := { a with ringLog2 := n, size := 2 ^ n, enableDue := false, state := .enabled, h := 0, f := 0, p := 0
                         cplProd := 0, cplCons := 0, paused := false, zeroDue := true, strikePend := true } })
     ∧ (4 ≤ n → n ≤ 12 → a.ringLog2 = 0 → ((s.eng.state ≠ .service ∧ s.eng.state ≠ .safe) ∨ a.cmd ≠ none) →
       exec (.adminQueueEnable port value) s = .next { noteWrite s port 0x208 with adm := { a with ringLog2 := n, enableDue := true } })
     ∧ ((a.ringLog2 ≠ 0 ∨ n < 4 ∨ 12 < n) → exec (.adminQueueEnable port value) s = .next (noteWrite s port 0x208))
     ∧ exec (.adminQueueDisable port) s = .next { noteWrite s port 0x208 with
         adm := { a with ringLog2 := 0, state := .disabled, enableDue := false, strikePend := false, fetch := none, zeroDue := false
                         f := match a.cmd with | some c => (c.pos + 1) % (2 * a.size) | none => a.f }
         fe := s.fe.map fun r => if r.use = .admCmd then { r with gone := true } else r })

/-- R287, R312, R313, R315 to R317: the write of zero indices and the read of the command at ADM_RING_BASE + 64 × (f mod S_A) go out once
the front end has room, unless the completion ring is full, which pauses the queue; the command that comes is checked, and one that fails
its check is rejected at once; an error, poison of its block, or no answer in time stops the queue under cause 9 or 8. Fetching one at a
time and the issue at the GCLK's end are the model's choices (log 44, log 40), the due time fixed at the issue its reading (log 18).
Completes: adminCommandFetch, fetchTimeout. -/
def Claims.AdminFetching : Prop :=
  ∀ (s : State) (r : Resp),
    (let a := s.adm
     let due := s.clk.gclk + 700 * s.eng.fetchTimeout.toNat
     let n := 2 ^ a.cplLog2
     let v := feDone s .admCmd
     let stops (cause : Nat) : State := raise { v with
         adm := { a with fetch := none, state := .error, errIndex := a.f, errCause := cause }
         fe := v.fe.map fun x => if x.use = .admCmd then { x with gone := true } else x }
       { src := 0x13, sub := cause, inst := some (0, a.f) }
     (∀ t, a.zeroDue = true → s.eng.state ≠ .safe → (∀ w ∈ a.idxWr, w.addr ≠ a.idxBase.toNat + 32) → feTry s .admIndexWr true (a.idxBase.toNat + 32) 8 = some t →
       admZeroPass s = { t with
         adm := { a with zeroDue := false, idxWr := a.idxWr ++ [{ addr := a.idxBase.toNat + 32, data := leBytes 0 8, due }] } })
     ∧ ((∃ w ∈ a.idxWr, w.addr = a.idxBase.toNat + 32) → admZeroPass s = s)
     ∧ (admMayFetch s = true → a.fetch = none → ringDist n a.cplCons a.cplProd = n → admFetchPass s = { s with adm.paused := true })
     ∧ (∀ t, admMayFetch s = true → a.fetch = none → ringDist n a.cplCons a.cplProd ≠ n → 0 < a.size →
         feTry s .admCmd false (a.ringBase.toNat + 64 * (a.f % a.size)) 64 = some t →
         admFetchPass s = { t with adm := { a with fetch := some due } })
     ∧ (s.runs = true → a.fetch.isSome = true →
         (r.sts = 0#2 → r.psn.getLsbD 0 = false →
           (let raw := leNat (sliceBytes r.data 0 64)
            let status := admCheck s.cfg.wakeWires raw
            exec (.adminCommandFetch false r) s = .next { v with
              adm := { a with fetch := none, f := (a.f + 1) % (2 * a.size)
                              cmd := some { pos := a.f, raw, phase := if status = 0 then .ready else .done status 0 } } }))
         ∧ ((r.sts ≠ 0#2 ∨ r.psn.getLsbD 0 = true) → exec (.adminCommandFetch false r) s = .next (stops 9))
         ∧ (∀ g, a.fetch = some g → g ≤ s.clk.gclk →
           exec (.adminCommandFetch true r) s = .next (stops 8) ∧ exec (.fetchTimeout 0 true 0) s = .next (stops 8))))

/-- R303, R319, R398, Table 8.7: a command that is carried out or rejected has its 16-byte completion entry written, and then cons and
cpl_prod; the answer to that write ends the command and raises the admin-completion source; a failed or unanswered write raises source 9
with its address, and the queue goes on. A write to bytes of which one is out waits for it (R411); due times as above (log 18). Completes:
adminCompletion, adminIndexWriteResponse, queueStructureWriteTimeout. -/
def Claims.AdminCompletions : Prop :=
  ∀ (s : State), s.runs = true →
    (let a := s.adm
     let due := s.clk.gclk + 700 * s.eng.fetchTimeout.toNat
     let n := 2 ^ a.cplLog2
     (∀ c, a.cmd = some c → s.eng.state ≠ .safe →
       (∀ st res t, c.phase = .done st res → s.eng.gFaultAt = none →
         feTry s .admCpl true (a.cplBase.toNat + 16 * (a.cplProd % n)) 16 = some t →
         exec .adminCompletion s = .next { t with adm := { a with
           cmd := some { c with phase := .writing }
           cplWr := some { addr := a.cplBase.toNat + 16 * (a.cplProd % n), due
                           data := leBytes (fld c.raw 4 0 32) 4 ++ leBytes (fld c.raw 2 0 8) 1
                             ++ leBytes (st % 128 + (if a.cplProd / n % 2 = 0 then 128 else 0)) 1 ++ leBytes c.pos 2 ++ leBytes res 8 } } })
       ∧ (c.phase = .written → (∃ w ∈ a.idxWr, w.addr = a.idxBase.toNat + 32) → exec .adminCompletion s = .next s)
       ∧ (∀ t, c.phase = .written → (∀ w ∈ a.idxWr, w.addr ≠ a.idxBase.toNat + 32) → feTry s .admIndexWr true (a.idxBase.toNat + 32) 8 = some t →
         (let h := (c.pos + 1) % (2 * a.size)
          let prod := (a.cplProd + 1) % (2 * n)
          exec .adminCompletion s = .next { t with adm := { a with
            cmd := some { c with phase := .indexing }, cplProd := prod, h, paused := ringDist n a.cplCons prod == n
            idxWr := a.idxWr ++ [{ addr := a.idxBase.toNat + 32, data := leBytes h 4 ++ leBytes prod 4, due }] } })))
     ∧ (∀ w r, a.idxWr = w :: r →
       (let v := { feDone s .admIndexWr with adm := { a with idxWr := r } }
        (∀ c, a.cmd = some c → c.phase = .indexing → r = [] →
          exec (.adminIndexWriteResponse 0#2) s = .next (pulse { v with adm := { a with idxWr := r, cmd := none } } 2)
          ∧ ∀ sts, sts ≠ 0#2 → exec (.adminIndexWriteResponse sts) s
              = .next (pulse { raise v { src := 9, detail := w.addr } with adm := { a with idxWr := r, cmd := none } } 2))
        ∧ ((a.cmd = none ∨ r ≠ []) → exec (.adminIndexWriteResponse 0#2) s = .next v
          ∧ (a.cplWr = none → w.due ≤ s.clk.gclk →
            exec (.queueStructureWriteTimeout 0) s = .next (raise v { src := 9, detail := w.addr }))))))

/-- R285, R313, R316, R317, R408: a read of the admin index block sets P and cpl_cons, and ends the pause when a completion entry is free;
one that would pass the ring, or name no completion entry, stops the queue under cause 0x0A, an error or poison of its block under 9, no
answer in time under 8. Completes: indexBlockReadReturn, fetchTimeout. -/
def Claims.AdminIndexReads : Prop :=
  ∀ (s : State) (r : Resp), s.runs = true → s.adm.idxRead.isSome = true →
    (let a := s.adm
     let n := 2 ^ a.cplLog2
     let v := { feDone s .admIndex with adm := { a with idxRead := none } }
     let stops (t : State) (cause : Nat) : State := raise { t with
         adm := { t.adm with fetch := none, state := .error, errIndex := a.f, errCause := cause }
         fe := t.fe.map fun x => if x.use = .admCmd then { x with gone := true } else x }
       { src := 0x13, sub := cause, inst := some (0, a.f) }
     let good := r.sts = 0#2 ∧ r.psn.getLsbD 0 = false
     let p := leNat (sliceBytes r.data 0 4)
     let k := leNat (sliceBytes r.data 4 4)
     let d := ringDist a.size a.h a.p
     let d' := ringDist a.size a.h p
     (a.state ≠ .enabled → exec (.indexBlockReadReturn 0 r) s = .next { v with adm := { a with idxRead := none, strikePend := false } })
     ∧ (a.state = .enabled → ¬ good → exec (.indexBlockReadReturn 0 r) s = .next (stops v 9))
     ∧ (a.state = .enabled → good → (2 * a.size ≤ p ∨ (d < d' ∧ a.size < d') ∨ 2 * n ≤ k) →
         exec (.indexBlockReadReturn 0 r) s = .next (stops v 0xA))
     ∧ (a.state = .enabled → good → p < 2 * a.size → (d < d' → d' ≤ a.size) → k < 2 * n →
         (let cons := if ringDist n a.cplCons k ≤ ringDist n a.cplCons a.cplProd then k else a.cplCons
          exec (.indexBlockReadReturn 0 r) s = .next { v with
            adm := { a with idxRead := none, p := if d < d' then p else a.p, cplCons := cons
                            paused := ringDist n cons a.cplProd == n } }))
     ∧ (∀ g, a.idxRead = some g → g ≤ s.clk.gclk → a.state = .enabled →
         exec (.fetchTimeout 0 false 0) s = .next (stops { v with adm := { a with idxRead := none, strikePend := false } } 8)))

/-- The admin queue: enabling and disabling (R312), its commands' fetches (R313, R315 to R317), completions (R319) and index blocks. -/
def Obligations.AdminQueue : Prop :=
  Claims.AdminEnabling ∧ Claims.AdminFetching ∧ Claims.AdminCompletions ∧ Claims.AdminIndexReads

/-! ### Program control (08, 09) -/

/-- R224, R238, R259, R278 to R280, R342 to R351: each program-control entry retires in the GCLK it dispatches in. NOP and FENCE NONE do
nothing else; FENCE FULL waits until every earlier entry has retired in an earlier GCLK, and drops the granary lines of its queue; FENCE
READS is dispatched at once and retires in a GCLK after every earlier entry has; a LINK sends the fetch position to its target.
Completes: nop, fenceNone, fenceFull, fenceReads, fenceReadsRetire, link. -/
def Claims.ControlEntries : Prop :=
  ∀ (s : State) (q : Nat) (x : Slot), s.runs = true →
    (frontIs s q .nop = some x → ∃ u, exec (.nop q) s = .next u ∧ EntryRetires s u q x ∧ { u with qs := s.qs } = s)
    ∧ (frontIs s q .fence = some x →
      (eFenceKind x.raw = 0 → ∃ u, exec (.fenceNone q) s = .next u ∧ EntryRetires s u q x ∧ { u with qs := s.qs } = s)
      ∧ (eFenceKind x.raw = 2 → (∀ z ∈ (s.getQ q).before x.pos, z.st = .retired) → (∀ g, (s.getQ q).headAt = some g → g < s.clk.gclk) →
          ∃ u, exec (.fenceFull q) s = .next u ∧ EntryRetires s u q x
          ∧ u.gran.lines = s.gran.lines.filter (fun l => l.owner != q)
          ∧ u.gran.fills = s.gran.fills.map (fun l => if l.owner = q then { l with noAlloc := true } else l)
          ∧ { u with qs := s.qs, gran.lines := s.gran.lines, gran.fills := s.gran.fills } = s)
      ∧ (eFenceKind x.raw = 2 → ((∃ z ∈ (s.getQ q).before x.pos, z.st ≠ .retired) ∨ (s.getQ q).headAt = some s.clk.gclk) →
          exec (.fenceFull q) s = .next s)
      ∧ (eFenceKind x.raw = 1 → ∃ u, exec (.fenceReads q) s = .next u
          ∧ (u.getQ q).slotAt x.pos = some { x with st := .dispatched }
          ∧ (u.getQ q).win.length = (s.getQ q).win.length ∧ (u.getQ q).h = (s.getQ q).h
          ∧ (∀ k, k ≠ q → u.getQ k = s.getQ k) ∧ { u with qs := s.qs } = s))
    ∧ ((s.getQ q).slotAt x.pos = some x → x.st = .dispatched → opOf x.raw = some .fence →
      ((∀ z ∈ (s.getQ q).before x.pos, z.st = .retired) → (∀ g, (s.getQ q).headAt = some g → g < s.clk.gclk) →
          ∃ u, exec (.fenceReadsRetire q x.pos) s = .next u ∧ EntryRetires s u q x ∧ { u with qs := s.qs, sig := s.sig } = s)
      ∧ (((∃ z ∈ (s.getQ q).before x.pos, z.st ≠ .retired) ∨ (s.getQ q).headAt = some s.clk.gclk) →
          exec (.fenceReadsRetire q x.pos) s = .next s))
    ∧ ((s.getQ q).win.find? (fun z => z.st == .link) = some x → (∀ z ∈ (s.getQ q).win, z.pos = x.pos → z = x) →
        ((s.getQ q).state = .enabled ∨ (s.getQ q).state = .error) →
      ∃ u, exec (.link q) s = .next u ∧ EntryRetires s u q x ∧ (u.getQ q).linkRun = (s.getQ q).linkRun + 1
          ∧ (u.getQ q).fetchAddr = (if (s.getQ q).f = (x.pos + 1) % (2 * 2 ^ (s.getQ q).k) then fld x.raw 8 0 64 else (s.getQ q).fetchAddr)
          ∧ { u with qs := s.qs } = s)

/-- R346 to R349: SIGNAL delivers its count of arrivals of its kind to its tally, among those of the GCLK in which it retires (R353); AWAIT
retires once the fire count, as the GCLK before left it, has reached its epoch, in a GCLK after it came to the front; TICKWAIT retires once
the ticks it waits for have been counted, and waits until then. Completes: signal, await, tickwaitRelative, tickwaitAligned. -/
def Claims.SignalAndWaits : Prop :=
  ∀ (s : State) (q : Nat) (x : Slot), s.runs = true →
    (frontIs s q .signal = some x →
      (let t := fld x.raw 8 0 14
       let n := fld x.raw 10 0 16
       let k := fld x.raw 12 0 2
       let y := s.tal.todo.getD {} t
       k ≠ 3 → ∃ u, exec (.signal q) s = .next u ∧ EntryRetires s u q x
         ∧ u.tal.todo.getD {} t = (if k = 0 then { y with normal := y.normal + n } else if k = 1 then { y with faulted := y.faulted + n }
             else { y with abandoned := y.abandoned + n })
         ∧ (∀ j, j ≠ t → u.tal.todo.getD {} j = s.tal.todo.getD {} j)
         ∧ { u with qs := s.qs, tal.todo := s.tal.todo } = s))
    ∧ (frontIs s q .await = some x →
      (let d := ((s.atStart.getT (fld x.raw 8 0 14)).fire + 65536 - fld x.raw 10 0 16) % 65536
       (∀ g, x.frontAt = some g → g < s.clk.gclk → d < 32768 →
         ∃ u, exec (.await q) s = .next u ∧ EntryRetires s u q x ∧ { u with qs := s.qs } = s)
       ∧ (32768 ≤ d → exec (.await q) s = .next s)))
    ∧ (frontIs s q .tickwait = some x →
      (eAligned x.raw = false →
        (fld x.raw 12 0 32 = 0 ∨ (fld x.raw 12 0 32 ≤ x.waited ∧ s.tick.lastTick < s.clk.gclk)) →
          ∃ u, exec (.tickwaitRelative q) s = .next u ∧ EntryRetires s u q x ∧ { u with qs := s.qs } = s)
      ∧ (eAligned x.raw = false → x.waited < fld x.raw 12 0 32 → exec (.tickwaitRelative q) s = .next s)
      ∧ (eAligned x.raw = true → x.go = true → s.tick.lastTick < s.clk.gclk →
          ∃ u, exec (.tickwaitAligned q) s = .next u ∧ EntryRetires s u q x ∧ { u with qs := s.qs } = s)
      ∧ (eAligned x.raw = true → x.go = false → exec (.tickwaitAligned q) s = .next s))
    ∧ (∀ g tick z, (s.getQ q).front = some z → opOf z.raw = some .tickwait → z.st = .fetched →
        (∀ a, z.frontAt = some a → a < g → ∃ w, (tickFront g tick (s.getQ q)).slotAt z.pos = some w ∧ w.waited = z.waited + 1
            ∧ (w.go = true ↔ z.go = true ∨ (eAligned z.raw = true ∧ tick % fld z.raw 12 0 32 = fld z.raw 16 0 32)))
        ∧ (z.frontAt = some g → tickFront g tick (s.getQ q) = s.getQ q))

/-- Program control at the front of a queue (R342 to R351). -/
def Obligations.ProgramControl : Prop := Claims.ControlEntries ∧ Claims.SignalAndWaits

/-! ### Streams and completion (07) -/

/-- R225 to R228, R301: when the part at the head of a bay's wait order can be taken, it takes the bay's least free context and its loft,
leaves the wait order, and its entry counts as dispatched. Completes: partDispatch. -/
def Claims.PartsDispatch : Prop :=
  ∀ (s : State) (b i : Nat) (f : Flight) (p : Part), s.runs = true → s.eng.state ≠ .safe → b < s.cfg.bays →
    waitHead s b = some (f.id, i) → s.flightOf f.id = some f → f.parts[i]? = some p →
    (s.getB b).pwr = .active → (s.getB b).waking = none → (s.getB b).faulted = false → (s.getB b).ctxs.length < 128 →
    (s.getB b).loft + p.loft ≤ 1048576 → opOf f.raw ≠ some .mcast → (∀ n, f.port = some n → (s.getP n).state = .up) →
    ∃ v c, exec (.partDispatch b) s = .next (pump v f.id)
      ∧ c < 128 ∧ c ∉ (s.getB b).ctxs ∧ (∀ d, d < c → d ∈ (s.getB b).ctxs)
      ∧ v.getB b = { s.getB b with ctxs := c :: (s.getB b).ctxs, loft := (s.getB b).loft + p.loft, since := s.clk.gclk
                                   loftClear := (s.getB b).loftClear && p.loft == 0
                                   waits := (s.getB b).waits.filter fun w => w != (f.id, i) }
      ∧ (∃ g, v.flightOf f.id = some g ∧ g.parts[i]? = some { p with ctx := some c } ∧ { g with parts := f.parts } = f
          ∧ ∀ j, j ≠ i → g.parts[j]? = f.parts[j]?)
      ∧ (∀ x, (s.getQ f.q).slotAt f.pos = some x → x.st = .fetched → (v.getQ f.q).slotAt f.pos = some { x with st := .dispatched })
      ∧ (∀ k, k ≠ f.q → v.getQ k = s.getQ k) ∧ (∀ k, k ≠ b → v.getB k = s.getB k)
      ∧ { v with qs := s.qs, bay := s.bay, flights := s.flights } = s

/-- R193: a LINKPUT or a send whose port is not UP when its part would be dispatched ends at once, abandoned, with the port-not-up note,
and issues nothing. -/
def Claims.SendPortNotUp : Prop :=
  ∀ (s : State) (b i n : Nat) (f : Flight) (x : Slot), s.runs = true → s.eng.state ≠ .safe → b < s.cfg.bays →
    waitHead s b = some (f.id, i) → s.flightOf f.id = some f → s.flightAt f.q f.pos = some f → (s.getQ f.q).slotAt f.pos = some x →
    bayTakes (s.getB b) (f.parts.getD i { bay := b }).loft = true → f.port = some n → (s.getP n).state ≠ .up →
    ∃ u v, exec (.partDispatch b) s = .next u
      ∧ v = raise s { src := 0x1B, unit := n, inst := some (f.q, f.pos) }
      ∧ u.flightOf f.id = some { f with parts := [], todo := [], wtodo := [], stage := .complete, cut := true }
      ∧ (∃ z, (u.getQ f.q).slotAt f.pos = some z ∧ z.st = .dispatched)
      ∧ (∀ k, ∀ w ∈ (u.getB k).waits, w.1 ≠ f.id)
      ∧ u.reads = s.reads ∧ u.writes = s.writes ∧ u.lnk = v.lnk ∧ u.tal = v.tal

/-- Parts are dispatched on bays (R226 to R228), and sends whose port is not UP end at once (R193). -/
def Obligations.Dispatch : Prop := Claims.PartsDispatch ∧ Claims.SendPortNotUp

/-- R117, R123, R124, Table 4.4: once every part has ended, the 32-byte winnow record with the instruction's counts waits to be written
at win_base, under stage recording; the arrival waits for its answer. Where it overlaps the side stream, the bytes shared are open. That
it is a write of part 0's bay, under the number 128, is the model's choice (log 12, log 23). Completes: winnowRecordWrite. -/
def Claims.WinnowRecord : Prop :=
  ∀ (s : State) (q pos : Nat) (f : Flight), s.runs = true → s.eng.state ≠ .safe → s.flightAt q pos = some f → s.flightOf f.id = some f →
    f.stage = .writing → eWin f.raw = true → f.cut = false → f.parts ≠ [] → (∀ p ∈ f.parts, p.gone = true) →
    (let big := 2 ^ 32 - 1
     let kind := if opOf f.raw = some .pack then 1 else if opOf f.raw = some .unpack then 2 else 3
     let sat := big < f.degen ∨ big < f.nonfin ∨ big < f.psnGran.length
     let data := leBytes f.elem 8 ++ leBytes f.clip 8 ++ leBytes (min f.degen big) 4 ++ leBytes (min f.nonfin big) 4
       ++ leBytes (min f.psnGran.length big) 4 ++ leBytes kind 1
       ++ leBytes ((if sat then 1 else 0) + 2 * (if f.bad = true ∨ f.missed = true then 1 else 0)) 1 ++ leBytes 0 2
     let w : WrReq := { side := .other, ord := 0, elem := 0, part := f.parts.length, va := fld f.raw 110 0 64, data, psn := 0#5 }
     let g (x : WrReq) : Flight := { f with
       stage := .recording, wtodo := [x], parts := f.parts ++ [{ bay := (f.parts.getD 0 { bay := 0 }).bay, ctx := some 128 }] }
     ∃ t l, exec (.winnowRecordWrite q pos) s = .next (pump (t.setF (g { w with data := l })) f.id) ∧ l.length = 32
       ∧ { t with free := s.free } = s ∧ (eScaleRule f.raw = 0 → t = s ∧ l = data))

/-- R126, R233, R235, R301, Table 10.3: the completion arrival of an instruction that has ended, with every record made and every progress
arrival delivered: its counts are added to its queue's, its arrival, of its kind, is delivered when it has one, its owner's slot is
raised when it is faulted or abandoned, and its entry retires. Completes: completionArrival. -/
def Claims.CompletionArrivals : Prop :=
  ∀ (s : State) (q pos : Nat) (f : Flight) (x : Slot), s.runs = true → s.flightAt q pos = some f → s.flightOf f.id = some f →
    f.stage = .complete → f.recd = f.faults.length → progressTotal f.raw ≤ f.prog → (s.getQ q).slotAt pos = some x → x.st = .dispatched →
    (∀ b ∈ s.lnk.bins, b.home ≠ some f.id) →
    (let k : Arr := if f.cut = true then .abandoned else if f.bad = true ∨ f.missed = true then .faulted else .normal
     let own := 512 + 16 * (s.getQ q).owner
     let counts := countsElems f.raw = true
     ∃ a b t, exec (.completionArrival q pos) s = .next t
       ∧ a.getQ q = { s.getQ q with elemCnt := if counts then min ((s.getQ q).elemCnt + f.elem) (2 ^ 64 - 1) else (s.getQ q).elemCnt
                                    clipCnt := if counts then min ((s.getQ q).clipCnt + f.clip) (2 ^ 64 - 1) else (s.getQ q).clipCnt
                                    elemNow := if counts then (s.getQ q).elemNow + f.elem else (s.getQ q).elemNow
                                    clipNow := if counts then (s.getQ q).clipNow + f.clip else (s.getQ q).clipNow }
       ∧ (∀ j, j ≠ q → a.getQ j = s.getQ j) ∧ { a with qs := s.qs, flights := s.flights } = s
       ∧ a.flights = s.flights.map (fun g => if g.id = f.id then { f with recd := f.faults.length } else g)
       ∧ b = (if k = .faulted then pulse (if eCen f.raw = true then arrive a (fld f.raw 120 0 14) k 1 else a) (own + 2)
              else if k = .abandoned then pulse (if eCen f.raw = true then arrive a (fld f.raw 120 0 14) k 1 else a) (own + 3)
              else if eCen f.raw = true then arrive a (fld f.raw 120 0 14) k 1 else a)
       ∧ EntryRetires b t q x
       ∧ t.flights = a.flights.filter (fun g => g.id != f.id)
       ∧ { t with qs := b.qs, flights := b.flights, sig := b.sig } = b)

/-- R241, R242: progress arrival k goes to the progress tally once every write of the slices before k × N has been answered; it is faulted
when a condition touched an element of those slices or the deadline was missed. Completes: progressArrival. -/
def Claims.ProgressArrivals : Prop :=
  ∀ (s : State) (q pos : Nat) (f : Flight), s.runs = true → s.flightAt q pos = some f → s.flightOf f.id = some f → f.cut = false →
    (let n := fld f.raw 120 32 16
     let lim := (f.prog + 1) * n * ((eSrc f.raw).cnt1 * (eSrc f.raw).cnt2 * (eSrc f.raw).run)
     let k : Arr := if f.missed = true ∨ (∃ m, f.badFrom = some m ∧ m < lim) then .faulted else .normal
     n ≠ 0 → f.prog < (eSrc f.raw).cnt3 / n → (f.stage = .writing ∨ f.stage = .recording ∨ f.stage = .complete) →
     ((∀ w ∈ f.wtodo, w.side = .other ∨ lim ≤ w.elem) →
        (∀ w ∈ s.writes, w.flight = f.id → w.req.side = .other ∨ lim ≤ w.req.elem) →
        exec (.progressArrival q pos) s = .next (arrive (s.setF { f with prog := f.prog + 1 }) (fld f.raw 120 16 14) k 1))
     ∧ ((∃ w ∈ s.writes, w.flight = f.id ∧ w.req.side ≠ .other ∧ w.req.elem < lim) → exec (.progressArrival q pos) s = .next s))

/-- Winnow records (R123, R124), completion and progress arrivals (R233 to R242). -/
def Obligations.RecordsAndArrivals : Prop := Claims.WinnowRecord ∧ Claims.CompletionArrivals ∧ Claims.ProgressArrivals

/-! ### Memory ports and translation (07, 12) -/

/-- R72, R230, R242, R247, R269, R270, R410, Table 12.5: a read response lands its bytes and poison marks for the part that asked, zeros
with every block poisoned for a status of 1 or 3; a status other than 0 is kept as a read error (source 2) at the request's address;
for a part that was cut off nothing lands. The locks of a locked read keep its bytes. The request then waits for its next port request, or
is over: the invalidations no longer await it, and its data waits in its landing slot for the reads of its part that came before.
Completes: readResponse. -/
def Claims.ReadsReturn : Prop :=
  ∀ (s : State) (bay tag : Nat) (r : Resp) (z : Read) (f : Flight) (p : Part), s.runs = true →
    s.reads.find? (fun x => x.bay == bay && x.tag == tag && !x.wait && x.beats.isEmpty) = some z →
    s.flightOf z.flight = some f → f.parts[z.req.part]? = some p →
    (let n : Nat := z.req.len
     let blocks := BitVec.ofNat 5 (2 ^ ((z.req.va + n - 1) / 64 - z.req.va / 64 + 1) - 1)
     let whole := r.sts = 0#2 ∨ r.sts = 2#2
     let data := if whole then sliceBytes r.data 0 n else List.replicate n 0#8
     let psn := if whole then r.psn &&& blocks else blocks
     let elem := z.req.elem + 8 * z.off / sideWidth f z.req.side * sideFeeds f z.req.side
     let keeps (l : Lock) : Lock :=
       if z.req.lock = true ∧ l.flight = z.flight ∧ l.data = none ∧ l.granule ∈ granulesOf z.pa n then { l with data := some data } else l
     let t : State := { s with locks := s.locks.map keeps, owed := s.owed.map keeps }
     let freed : State := { t with
       reads := s.reads.filter fun x => x != z
       inv := s.inv.map fun v => { v with reads := v.reads.filter fun x => x != (z.bay, z.tag) } }
     let g : Flight := { f with land := f.land ++ [{ side := z.req.side, grp := z.req.grp, va := z.req.va, data, psn, elem }] }
     let h : Flight := if r.sts = 0#2 then g else { g with
       faults := g.faults ++ [{ src := 2, side := z.req.side, ord := z.req.ord, detail := z.pa, len := n, bay := z.bay, off := z.off }]
       bad := true, badFrom := some (match g.badFrom with | some e => min e elem | none => elem) }
     let live := p.ctx.isSome = true ∧ p.gone = false ∧ p.cut = false
     (live → z.rest = [] → exec (.readResponse bay tag r) s = .next (pump (writeBacks (freed.setF { h with
         slots := (h.slots ++ [({ part := z.req.part, tag := z.tag, n := z.req.n } : Landing)]).filter fun x =>
           (freed.reads.any fun q => q.flight == f.id && q.req.part == x.part && decide (q.req.n < x.n))
             || f.todo.any fun q => q.part == x.part && decide (q.n < x.n) })) f.id))
     ∧ (∀ q qs, live → z.rest = q :: qs → exec (.readResponse bay tag r) s = .next (pump (writeBacks ({ t with
         reads := s.reads.map fun x => if x = z then
             { z with req := { z.req with va := q.va, len := q.len }, pa := q.pa, wait := true, beats := [], rest := qs, off := z.off + n }
           else x }.setF h)) f.id))
     ∧ (¬ live → z.rest = [] → exec (.readResponse bay tag r) s = .next (pump (writeBacks freed) f.id)))

/-- R255 to R257, R259, Table 12.5: a first beat of a fill is kept, and a read that waits for it takes its bytes of the beat under the
beat's status; the second beat ends the fill: the line is allocated when both beats are good and nothing has forbidden it, as the most
recently used of the 16 ways of its set. Completes: fillBeat. -/
def Obligations.LineFills : Prop :=
  ∀ (s : State) (slice line : Nat) (r : Resp) (x : Fill), s.runs = true → fillOf s slice line = some x →
    (let keep := s.gran.fills.filter fun z => !(z.slice == slice && z.line == line)
     let idle := ∀ z ∈ s.reads, ∀ k, (slice, line, k) ∉ z.beats
     let one (v : State) : Prop := fillOf v slice line = some { x with beat0 := some r } ∧ { v with gran.fills := s.gran.fills } = s
     (x.beat0 = none → x.beat1 = none → idle → ∃ v, exec (.fillBeat slice line 0 r) s = .next v ∧ one v)
     ∧ (x.beat0 = none → x.beat1 = none → idle → ∃ v, exec (.fillBeat slice line 1 r) s = .next v
         ∧ fillOf v slice line = some { x with beat1 := some r } ∧ { v with gran.fills := s.gran.fills } = s)
     ∧ (∀ z sl lpa off len data psn err, x.beat0 = none → x.beat1 = none →
         s.reads.filter (fun z => z.beats.contains (slice, line, 0)) = [z] → z.beats = [(slice, line, 0)] → decodePa s z.pa = some (sl, lpa) →
         (beatParts lpa z.req.len).find? (fun p => p.1 == line && p.2.1 == 0) = some (line, 0, off, len) →
         takeResp (z.req.va + off) len { sts := r.sts, psn := BitVec.ofNat 5 (r.psn.toNat >>> ((lpa + off) % 256 / 64))
                                         data := r.data.drop ((lpa + off) % 256) } = (data, psn, err) →
         ∃ v, exec (.fillBeat slice line 0 r) s
             = .next (requestDone (landLock (landPart v { z with beats := [] } off data psn err) { z with beats := [] } data) { z with beats := [] })
           ∧ fillOf v slice line = some { x with beat0 := some r }
           ∧ v.reads = s.reads.map (fun y => if y = z then { z with beats := [] } else y)
           ∧ { v with gran.fills := s.gran.fills, reads := s.reads } = s)
     ∧ (∀ a, x.beat0 = some a → x.beat1 = none → idle →
       (a.sts = 0#2 → r.sts = 0#2 → x.noAlloc = false →
         ∃ u m, exec (.fillBeat slice line 1 r) s = .next u ∧ u.gran.fills = keep ∧ lineOf u slice line = some m
           ∧ m = { slice, line, owner := x.owner, data := sliceBytes a.data 0 256 ++ sliceBytes r.data 0 256
                   psn := BitVec.ofNat 8 (a.psn.toNat % 16 + 16 * (r.psn.toNat % 16)) }
           ∧ (∀ k ∈ u.gran.lines, k = m ∨ k ∈ s.gran.lines)
           ∧ (∀ k ∈ s.gran.lines, (k.slice ≠ slice ∨ k.line % 512 ≠ line % 512) → k ∈ u.gran.lines)
           ∧ (∃ ways : List Line, ways.length ≤ 16 ∧ ∀ k ∈ u.gran.lines, k.slice = slice → k.line % 512 = line % 512 → k ∈ ways)
           ∧ { u with gran.fills := s.gran.fills, gran.lines := s.gran.lines } = s)
       ∧ ((a.sts ≠ 0#2 ∨ r.sts ≠ 0#2 ∨ x.noAlloc = true) → exec (.fillBeat slice line 1 r) s = .next { s with gran.fills := keep })))

/-- R269: a lock that was released, and whose read has returned, is paid: its granule is written back with the bytes read, every block
poisoned, under the bay's least free write tag; while no tag is free it stays owed. -/
def Claims.ReleasedGranules : Prop :=
  ∀ (s : State) (l : Lock) (data : List Byte), s.owed.filter (·.data.isSome) = [l] → l.data = some data → decodePa s (256 * l.granule) = none →
    (let held := (s.writes.filter fun w => w.bay == l.bay).map (·.tag)
     (∀ tag, tag < 2048 → tag ∉ held → (∀ n, n < tag → n ∈ held) →
       writeBacks s = { s with
         owed := s.owed.filter fun x => x != l
         writes := s.writes ++ [{ bay := l.bay, tag, flight := l.flight, pa := 256 * l.granule, slot := none
                                  req := { side := .other, ord := 0, elem := 0, part := l.part, va := 256 * l.va, data, psn := 15#5
                                           lock := true } }] })
     ∧ ((∀ tag, tag < 2048 → tag ∈ held) → writeBacks s = s))

/-- R230, R234, R247, R248, R258, R397: a write response answers its port request; the write then waits for its next one, or is over, and
its tag is free. An error status is kept as a write error (source 1) at the request's address, and drops every granary line that the
write hit. A masked bay begins to clear with the answer to its last write. Completes: writeResponse. -/
def Claims.WritesAnswered : Prop :=
  ∀ (s : State) (bay tag : Nat) (sts : BitVec 2) (w : Write) (f : Flight), s.runs = true →
    s.writes.find? (fun x => x.bay == bay && x.tag == tag && !x.wait) = some w → s.flightOf w.flight = some f →
    (let t : State := match w.rest with
       | [] => { s with
           writes := s.writes.filter fun x => x != w
           inv := s.inv.map fun v => { v with writes := v.writes.filter fun x => x != (w.bay, w.tag) } }
       | (q, pa) :: l => { s with
           writes := s.writes.map fun x => if x = w then
             { w with req := q, pa, wait := true, slot := none, rest := l, off := w.off + w.req.data.length } else x }
     let elem := w.req.elem + 8 * w.off / sideWidth f w.req.side * sideFeeds f w.req.side
     let clears (v : State) : State := if (s.getB bay).faulted = true then clearBegins v bay else v
     (sts = 0#2 → exec (.writeResponse bay tag sts) s = .next (pump ((clears (writeBacks t)).setF f) f.id))
     ∧ (sts ≠ 0#2 → ∃ v, exec (.writeResponse bay tag sts) s = .next (pump ((clears v).setF { f with
           faults := f.faults ++ [{ src := 1, side := w.req.side, ord := w.req.ord, detail := w.pa, len := w.req.data.length, bay
                                    off := w.off }]
           bad := true, badFrom := some (match f.badFrom with | some e => min e elem | none => elem) }) f.id)
         ∧ (∀ slice lpa, decodePa s w.pa = some (slice, lpa) → ∀ x ∈ lineParts lpa w.req.data.length, lineOf v slice x.1 = none)
         ∧ (decodePa s w.pa = none → v = writeBacks t) ∧ { v with gran := (writeBacks t).gran } = writeBacks t))

/-- Answers of data reads and writes (R230 to R234), and the write-backs of released locks (R269). When data leave their landing
slot is the model's choice (log 43). -/
def Obligations.MemoryAnswers : Prop := Claims.ReadsReturn ∧ Claims.ReleasedGranules ∧ Claims.WritesAnswered

/-- R244 to R246, R249, R424: a page that a request misses is asked for once, in one of 32 requests; a good completion of a page of 4 KiB,
64 KiB, 2 MiB or 1 GiB enters that page, and any other size the 4 KiB page, as the most recently used of 1,024 entries; a completion that
failed, or grants neither reads nor writes, is a page fault of every request that waits for the page: a read's bytes land as zeros with
every block poisoned, and a write writes nothing; a request that something else holds back has not asked, and is left as it was (the model's
reading, log 37). Completes: translationRequest, translationCompletion. -/
def Obligations.Translations : Prop :=
  ∀ (s : State) (b : Nat), s.runs = true →
    (∀ va, s.eng.state ≠ .safe → waitsForPage s b (va / 4096 * 4096) = true → bayAwake (s.getB b) = true →
        (∀ x ∈ (s.getB b).xl, x.2 ≠ va / 4096 * 4096) → (s.getB b).xl.length < 32 →
      ∃ n, n < 32 ∧ (∀ x ∈ (s.getB b).xl, x.1 ≠ n)
        ∧ exec (.translationRequest b va) s = .next (s.setB b { s.getB b with
            xl := (s.getB b).xl ++ [(n, va / 4096 * 4096)], missCnt := (s.getB b).missCnt + 1 }))
    ∧ (∀ req page addr size, ∀ (r w : Bool) (sts : BitVec 2), (s.getB b).xl.find? (fun x => x.1 == req) = some (req, page) →
        (let y := s.getB b
         let left := y.xl.filter fun z => z.1 != req
         let n := if size = 1 then 2 ^ 16 else if size = 2 then 2 ^ 21 else if size = 3 then 2 ^ 30 else 2 ^ 12
         let e : MapEnt := { va := page / n * n, size := if size ≤ 3 then size else 0, pa := addr / n * n }
         (sts = 0#2 → (r = true ∨ w = true) → ∃ v, exec (.translationCompletion b req sts addr size r w) s = .next (pumpAll v)
            ∧ v.getB b = { y with xl := left, mapc := (e :: y.mapc.filter fun z => z != e).take 1024 }
            ∧ (∀ k, k ≠ b → v.getB k = s.getB k) ∧ { v with bay := s.bay } = s)
         ∧ ((sts ≠ 0#2 ∨ (r = false ∧ w = false)) → ∃ v, exec (.translationCompletion b req sts addr size r w) s = .next (pumpAll v)
            ∧ v.getB b = { y with xl := left } ∧ (∀ k, k ≠ b → v.getB k = s.getB k)
            ∧ v.flights = s.flights.map (fun f => let u := s.setB b { y with xl := left }; drainSlots u (faultWrites u b page (faultReads u b page f)))
            ∧ { v with bay := s.bay, flights := s.flights } = s)))
    ∧ (∀ page f d, f.todo = [d] → readAsks s f d = true → f.bayOf d.part = b → page ≤ d.va → d.va + d.len ≤ page + 4096 → 0 < d.len →
        (let g := faultReads s b page f
         g.todo = []
         ∧ (∃ psn, psn = BitVec.ofNat 5 (2 ^ ((d.va + d.len - 1) / 64 - d.va / 64 + 1) - 1)
           ∧ g.land = f.land ++ [{ side := d.side, grp := d.grp, va := d.va, data := List.replicate d.len 0#8, psn, elem := d.elem }])
         ∧ g.faults = f.faults ++ [{ src := 3, side := d.side, ord := d.ord, detail := d.va, len := d.len, bay := b }]
         ∧ g.bad = true ∧ g.wtodo = f.wtodo))
    ∧ (∀ page f d, f.wtodo = [d] → writeAsks s f d = true → f.bayOf d.part = b → page ≤ d.va → d.va + d.data.length ≤ page + 4096 →
        d.data ≠ [] → f.stage ≠ .recording →
        (let g := faultWrites s b page f
         g.wtodo = [] ∧ g.land = f.land
         ∧ g.faults = f.faults ++ [{ src := 3, side := d.side, ord := d.ord, detail := d.va, len := d.data.length, bay := b }]
         ∧ g.bad = true ∧ g.todo = f.todo
         ∧ (opOf f.raw ≠ some .contract → g.elem = f.elem)
         ∧ (opOf f.raw = some .contract → d.side = .dest →
             f.rx = none → g.elem = f.elem
               - (((f.sound.drop d.elem).take ((writeSpan (eDst f.raw) (eDstW f.raw) d).2 - d.elem)).filter id).length)))
    ∧ (∀ (d : Shape) (w : Nat) (r : WrReq), 0 < w →
        (let n := (8 * r.data.length + w - 1) / w
         (wholeBytes w d.run ≠ 0 → writeSpan d w r = (r.elem, r.elem + n))
         ∧ (wholeBytes w d.run = 0 → 0 < d.run → writeSpan d w r = (r.elem, min (r.elem + n) ((r.elem / d.run + 1) * d.run)))))
    ∧ (∀ page f, (∀ r ∈ f.todo, readAsks s f r = false) → faultReads s b page f = f)
    ∧ (∀ page f, (∀ w ∈ f.wtodo, writeAsks s f w = false) → faultWrites s b page f = f)

/-! ### Data and link instructions (02 to 07) -/

/-- R23, R197, R224, R225, R227, R228, Tables 7.1 and 7.2: the front entry of a queue, when it may be placed, is split into the parts of
Table 7.1 (log 8), each in the wait order of its bay with its loft to be granted, one part a bay while bays remain, and holds the first
reads of its opcode. It may not while the entry of another queue goes before it: of a real-time queue within budget, then of a higher
class, then one fetched earlier. A part goes to the bay with the most free contexts, an Active one before the others, the lowest number
first. -/
def Obligations.InstructionsPlaced : Prop :=
  ∀ (s : State) (q pos : Nat) (x : Slot), s.runs = true → (s.getQ q).slotAt pos = some x →
    (∀ f, s.flightAt q pos = some f → f.parts = []) →
    (let e := x.raw
     let k := planCut s.cfg.bays e
     let src := eSrc e
     let plain := plainReads k src (eSrcW e) (eCt e)
     let shs := contractShares s.cfg.bays e src
     let can (o : Op) : Prop := mayPlace s q pos o = true
     let goes (i : Instr) (n : Nat) (reads : List RdReq) : Prop := exec i s = .next (placeEntry s q pos n reads)
     (can .move → goes (.move q pos) k.n plain)
     ∧ (can .fill → goes (.fill q pos) k.n [])
     ∧ (can .cast → goes (.cast q pos) k.n plain)
     ∧ (can .pack → goes (.pack q pos) k.n plain)
     ∧ (can .unpack → goes (.unpack q pos) k.n (plain ++ unpackScaleReads k e src))
     ∧ (can .gather → goes (.gather q pos) k.n (indexReads k e src src.run))
     ∧ (can .scatter → goes (.scatter q pos) k.n (indexReads k e (eDst e) src.run ++ plainReads k src (eSrcW e) false))
     ∧ (can .scatterAdd → goes (.scatterAdd q pos) 1 (indexReads oneCut e (eDst e) src.run ++ plainReads oneCut src (eSrcW e) false))
     ∧ (can .contract → goes (.contract q pos) (shareParts shs) (shareIndexReads e src shs ++ operandReads e src shs))
     ∧ (can .linkput → goes (.linkput q pos) 1 (linkReads e))
     ∧ (can .linkreduce → eHome e = false → goes (.linkreduceSend q pos) 1 (linkReads e))
     ∧ (can .linkreduce → eHome e = true → goes (.linkreduceHome q pos) 1 (if eHomeSrc e = true then linkReads e else []))
     ∧ (∀ l, can .mcast → x.listBad = false → x.list = some l →
         goes (.mcast q pos) 1 (linkReads e))
     ∧ (eCt e = false → k.n = max 1 (min s.cfg.bays (min (outerLoop src).1 ((busierSlots e + 1023) / 1024)))))
    ∧ (∀ n reads, s.flightAt q pos = none → (∀ g ∈ s.flights, g.id ≠ s.nextId) → (∃ b, b < s.cfg.bays ∧ (s.getB b).faulted = false) →
        ∃ v f, placeEntry s q pos n reads = pump v f.id ∧ v.flightOf f.id = some f
          ∧ (f.q, f.pos, f.raw, f.stage, f.cut, f.bad, f.local_) = (q, pos, x.raw, .first, false, x.listBad, x.local_)
          ∧ f.todo = reads.zipIdx.map (fun (r, m) => { r with n := m }) ∧ f.parts.length = n
          ∧ (n ≤ ((List.range s.cfg.bays).filter fun b => !(s.getB b).faulted).length → (f.parts.map (·.bay)).Nodup)
          ∧ (∀ i p, f.parts[i]? = some p → p.bay < s.cfg.bays ∧ (s.getB p.bay).faulted = false ∧ p.ctx = none
              ∧ p.loft = loftOf x.raw ∧ (f.id, i) ∈ (v.getB p.bay).waits)
          ∧ v.qs = s.qs ∧ v.reads = s.reads ∧ v.writes = s.writes)
    ∧ (∀ k z w, k ≠ q → k ∈ s.qs.keys → competes s k = some z → (s.getQ q).front = some w →
        ((rtIn (s.getQ k) = true ∧ rtIn (s.getQ q) = false)
          ∨ (rtIn (s.getQ k) = rtIn (s.getQ q) ∧ ((s.getQ q).cls < (s.getQ k).cls ∨ ((s.getQ q).cls = (s.getQ k).cls ∧ z.at_ < w.at_)))) →
        ∀ o, mayPlace s q pos o = false)
    ∧ (∀ id b c, placeBay s id = some b → c < s.cfg.bays → (s.getB c).faulted = false →
        (∀ d, d = b ∨ d = c → (s.getB d).pwr = .active ∨ (s.getB d).pwr = .idle) →
        (∀ f, s.flightOf id = some f → ∀ p ∈ f.parts, p.bay ≠ c) →
        b < s.cfg.bays ∧ (s.getB b).faulted = false ∧ (∀ f, s.flightOf id = some f → ∀ p ∈ f.parts, p.bay ≠ b)
          ∧ (s.getB b).ctxs.length ≤ (s.getB c).ctxs.length
          ∧ ((s.getB b).ctxs.length = (s.getB c).ctxs.length → (s.getB c).pwr = .active → (s.getB b).pwr = .active ∧
              ((s.getB b).pwr = .active → b ≤ c)))

/-- R56, R70, R80, R87, R90, R92, R337, R338: when its reads have landed, a MOVE writes its source elements bit for bit where its
destination
walk places them, a FILL its pad_value everywhere, and a CAST each element converted once under its rounding mode, or copied when the
formats are equal; a CAST counts the elements that did not arrive poisoned, and of these the clips. Completes: move, fill, cast. -/
def Obligations.MoveFillCast : Prop :=
  ∀ (s : State) (q pos : Nat) (f : Flight),
    (let e := f.raw
     let k := flightCut s f
     let es := landedStream k f
     let writes (m : Made) : List WrReq := (destWrites (eDst e) (eWalk e) (eDstW e) (eCt e) m.es).map fun r =>
       { r with part := k.ofElem (eSrc e) (eDst e) (eCt e) r.elem }
     let makes (i : Instr) (m : Made) (reads : List (Nat × Nat)) : Prop :=
       ∃ u, exec i s = .next u ∧ Produces u s f m (writes m) (clashes reads [] (recordRange e) (writes m))
     let conv (x : Elem) (n : Nat) : Conv := convert (eDstFmt e)
       { rnd := eRnd e, ovfInf := eOvfInf e, r := if eRnd e = 2 then srRandom (eSeed e) n else 0 } (valueOf (eSrcFmt e) x.code)
     let sound := (es.filter fun x => !x.psn).length
     (Ready s q pos .move .first f → makes (.move q pos) { es } (sourceRanges k e))
     ∧ (Ready s q pos .fill .first f →
         makes (.fill q pos) { es := List.replicate (eDst e).total { code := ePad e % 2 ^ eSrcW e, pad := true } } [])
     ∧ (Ready s q pos .cast .first f → eSrcFmt e = eDstFmt e → makes (.cast q pos) { es, elem := sound } (sourceRanges k e))
     ∧ (Ready s q pos .cast .first f → eSrcFmt e ≠ eDstFmt e → makes (.cast q pos) {
         es := es.zipIdx.map fun (x, n) => { code := (conv x n).code, pad := x.pad, psn := x.psn || ((conv x n).gen && !x.pad) }
         elem := sound, clip := (es.zipIdx.filter fun (x, n) => !x.psn && (conv x n).clip).length } (sourceRanges k e)))

/-- R96, R97, R105 to R115, Table 4.3: a PACK encodes its source unit by unit and writes the codes and, unless its rule is none,
one scale for
each unit; a NaN-scaled unit has the NaN scale and the code nearest zero everywhere, and no clip; a unit of magnitude 0 has the scale
1.0 and is degenerate unless an element arrived poisoned; an element that arrived poisoned gets the code nearest zero and passes its
mark on to its block and to the scale. Completes: pack. -/
def Claims.PackResults : Prop :=
  (∀ (s : State) (q pos : Nat) (f : Flight), Ready s q pos .pack .first f →
    (let e := f.raw
     let k := flightCut s f
     let m := packMade s e (eDst e) (landedStream k f)
     let ws := (destWrites (eDst e) (eWalk e) (eDstW e) (eCt e) m.es ++ scaleWrites e m.unit m.scales).map fun r =>
       { r with part := k.ofElem (eSrc e) (eDst e) (eCt e) r.elem }
     ∃ u, exec (.pack q pos) s = .next u ∧ Produces u s f m ws (clashes (sourceRanges k e) [] (recordRange e) ws)))
  ∧ (∀ (e n0 : Nat) (cb : List Nat) (xs : List Elem),
    (let u := packUnit e cb n0 xs
     let fin (x : Elem) : Bool := valFinite (valueOf (eSrcFmt e) x.code)
     let zero (i : Nat) : Prop := (u.es.getD i { code := 0 }).code = zeroCode (eDstFmt e) cb
     let mag := unitMag (eSrcFmt e) xs
     u.es.length = xs.length ∧ u.psn = xs.any (·.psn)
     ∧ (∀ i x, xs[i]? = some x → x.psn = true → zero i ∧ (u.es.getD i { code := 0 }).psn = true)
     ∧ (eScaleRule e = 0 → u.degen = false)
     ∧ (eScaleRule e = 1 → (∃ x ∈ xs, x.psn = false ∧ fin x = false) →
         u.scale.code = (if eScFmt e = 1 then 0x7E00 else 0xFF) ∧ u.clip = 0 ∧ u.degen = false ∧ ∀ i, i < xs.length → zero i)
     ∧ (eScaleRule e ≠ 0 → (∀ x ∈ xs, x.psn = true ∨ fin x = true) → mag.1 = 0 →
         u.scale.code = (if eScFmt e = 1 then 0x3C00 else 0x7F) ∧ (u.degen = true ↔ ∀ x ∈ xs, x.psn = false)
         ∧ ∀ i, i < xs.length → zero i)
     ∧ (eScaleRule e = 1 → eScFmt e = 0 → (∀ x ∈ xs, x.psn = true ∨ fin x = true) → mag.1 ≠ 0 →
         (u.scale.code : Int) = max (-127) (min 127 (floorLog2 mag.1 1 + mag.2 - (narrowConst (eDstFmt e) cb).1)) + 127)))

/-- R107, R115, R118 to R121: an UNPACK multiplies the value of each code by its unit's scale and rounds the product once; a NaN or infinite
product counts one non-finite event; an element whose code or scale arrived poisoned passes the mark on and counts nothing; a pad element
passes no mark on from its scale (R72). Completes: unpack. -/
def Claims.UnpackResults : Prop :=
  ∀ (s : State) (q pos : Nat) (f : Flight), Ready s q pos .unpack .first f →
    (let e := f.raw
     let k := flightCut s f
     let cb := if fmtIsCb (eSrcFmt e) = true then cbOf s e (eSrcFmt e) else []
     let l := max 1 (unitLen e (eSrc e).run)
     let scale (n : Nat) : Val × Bool := if eScaleRule e = 0 then (.fin false 1 0, false)
       else landedScale e f.land (k.ofElem (eSrc e) (eDst e) false (n / l * l)) (n / l)
     let val (x : Elem) (n : Nat) : Val := valMul (narrowVal cb (eSrcFmt e) x.code) (scale n).1
     let conv (x : Elem) (n : Nat) : Conv := convert (eDstFmt e)
       { rnd := eRnd e, ovfInf := eOvfInf e, r := if eRnd e = 2 then srRandom (eSeed e) n else 0 } (val x n)
     let bad (x : Elem) (n : Nat) : Bool := x.psn || (scale n).2
     let es := (landedStream k f).zipIdx
     let m : Made := {
       es := es.map fun (x, n) => { code := (conv x n).code, pad := x.pad, psn := x.psn || (((scale n).2 || (conv x n).gen) && !x.pad) }
       elem := (es.filter fun (x, n) => !bad x n).length
       clip := (es.filter fun (x, n) => !bad x n && (conv x n).clip).length
       nonfin := (es.filter fun (x, n) => !bad x n && !valFinite (val x n)).length }
     let ws := (destWrites (eDst e) (eWalk e) (eDstW e) (eCt e) m.es).map fun r =>
       { r with part := k.ofElem (eSrc e) (eDst e) (eCt e) r.elem }
     ∃ u, exec (.unpack q pos) s = .next u ∧ Produces u s f m ws
       (clashes (sourceRanges k e) (rdRanges (unpackScaleReads k e (eSrc e))) (recordRange e) ws))

/-- What PACK and UNPACK produce (R103 to R121). -/
def Obligations.NarrowResults : Prop := Claims.PackResults ∧ Claims.UnpackResults

/-- R133 to R140, Tables 5.2 and 5.6: a GATHER reads the rows whose indices are good once its indices have landed, and writes each row as
read, or pad_value, poisoned when its index is; a SCATTER writes the rows of good indices only. The first index out of range raises the
index note, with the lowest bay whose part found one, and makes the instruction faulted. The note's p counts within its plane, the model's
reading (log 20). Completes: gather, scatter. -/
def Claims.GatherScatter : Prop :=
  ∀ (s : State) (q pos : Nat) (f : Flight),
    (let e := f.raw
     let k := flightCut s f
     let src := eSrc e
     let dst := eDst e
     let none' : Idx := { x := 0, psn := true }
     let ix := rowIndices e src k.part f.land
     let mark (b : Option Nat) : Flight := match b with | some n => flightBad f n | none => f
     let good (x : Idx) : Prop := x.psn = false ∧ x.x < eIdxLim e
     (Ready s q pos .gather .first f →
       exec (.gather q pos) s = .next (pump (indexNote (s.setF { mark (indexBadFrom e src false ix) with
         stage := .second, todo := numbered (idxRowReads k e src (eSrcW e) ix) }) f src (partIndices k.part ix)) f.id))
     ∧ (Ready s q pos .gather .second f →
       ∃ rows : List (List Elem), rows.length = src.rows
         ∧ (∀ r, r < src.rows → ¬ good (ix.getD r none') →
             rows[r]? = some (List.replicate src.run { code := ePad e % 2 ^ eSrcW e, pad := true, psn := (ix.getD r none').psn }))
         ∧ (∀ r, r < src.rows → good (ix.getD r none') → rows[r]? = some ((List.range src.run).map fun i =>
             srcElem src (eSrcW e) (ePad e) f.land ((idxHeads e src (eSrcW e) k.part ix).getD r r)
               (ix.getD r none').x (src.start2 + (rowIdx src 0 r).2.1) (src.start3 + (rowIdx src 0 r).2.2) i))
         ∧ (let ws := (destWrites dst (eWalk e) (eDstW e) (eCt e) rows.flatten).map fun w => { w with part := k.ofElem src dst (eCt e) w.elem }
            ∃ u, exec (.gather q pos) s = .next u ∧ Produces u s f { es := rows.flatten } ws
              (clashes (rdRanges (idxRowReads k e src (eSrcW e) ix) ++ rdRanges (indexReads k e src src.run)) [] (recordRange e) ws)))
     ∧ (Ready s q pos .scatter .first f →
       (let part := destRowPart k src dst
        let jx := rowIndices e dst part f.land
        let es := landedStream k f
        let g := mark (indexBadFrom e dst true jx)
        let ws := (indexedWrites e dst (eDstW e) part jx es).map fun w => { w with part := k.ofElem src dst false w.elem }
        ∃ u, exec (.scatter q pos) s = .next u ∧ Produces u (indexNote (s.setF g) f dst (partIndices part jx)) g { es } ws
          (clashes (sourceRanges k e ++ rdRanges (indexReads k e dst src.run)) [] (recordRange e) ws)))
     ∧ (∀ (t : State) (side : Shape) (l m : List (Nat × Nat × Idx)) (r i : Nat) (x : Idx),
         (let out (y : Idx) : Prop := y.psn = false ∧ eIdxLim e ≤ y.x ∧ y.x ≠ 0xFFFFFFFF
          ((∀ y ∈ l, ¬ out y.2.2) → indexNote t f side l = t)
          ∧ ((∀ y ∈ l, ¬ out y.2.2) → out x → ∃ u, indexNote t f side (l ++ (r, i, x) :: m) = raise t {
                 src := 0x16, unit := u, inst := some (f.q, f.pos)
                 detail := r / side.cnt1 + (r % side.cnt1) * 2 ^ 40 + x.x * 2 ^ 60 }
               ∧ u ≤ 0xFFFF ∧ (∀ y ∈ (r, i, x) :: m, out y.2.2 → u ≤ f.bayOf y.2.1)
               ∧ (u = 0xFFFF ∨ ∃ y ∈ (r, i, x) :: m, out y.2.2 ∧ u = f.bayOf y.2.1)))))

/-- R141 to R143, R267: a SCATTER_ADD makes its additions one after another in stream order: it reads the granules of the next one locked,
then writes the code of old + src there, poisoned when either was, and ends when none is left. Completes:
scatterAdd. -/
def Claims.ScatterAddSteps : Prop :=
  ∀ (s : State) (q pos : Nat) (f : Flight),
    (let e := f.raw
     let d := eDst e
     let ix := rowIndices e d (fun _ => 0) f.land
     let w := eDstW e / 8
     let es := landedStream (flightCut s f) { f with land := f.land.filter fun l => l.side == .source }
     (Ready s q pos .scatterAdd .first f →
       exec (.scatterAdd q pos) s = .next (pump (indexNote (s.setF {
         (match indexBadFrom e d true ix with | some n => flightBad f n | none => f) with stage := .second, seq := 0 }) f d
         (partIndices (fun _ => 0) ix)) f.id))
     ∧ (Ready s q pos .scatterAdd .second f →
       (nextAdd e d ix f.seq = none → exec (.scatterAdd q pos) s = .next (pump (s.setF { f with stage := .writing, land := [] }) f.id))
       ∧ (∀ n a g, nextAdd e d ix f.seq = some (n, a) → fencedWrites s f = false →
           (granulesOf a w).find? (fun g => !f.land.any fun l => l.side == .dest && l.grp == g) = some g →
           exec (.scatterAdd q pos) s = .next (pump (s.setF { f with seq := n, todo := [{ side := .dest, grp := g, ord := n, elem := n,
                                                                                           part := 0, va := 256 * g, len := 256, lock := true }] }) f.id))
       ∧ (∀ n a, nextAdd e d ix f.seq = some (n, a) → 0 < w →
           (∀ g ∈ granulesOf a w, (∃ l ∈ f.land, l.side = .dest ∧ l.grp = g) ∧ ∃ l ∈ s.locks, l.flight = f.id ∧ l.va = g) →
           rangesMeet (addRanges e d ix) (sourceRanges (flightCut s f) e ++ rdRanges (indexReads (flightCut s f) e d (eSrc e).run)) = false →
           (let old := (List.range w).map fun i => landedByte f.land .dest ((a + i) / 256) (a + i)
            let x := es.getD n { code := 0 }
            let code := (convert (eDstFmt e) { rnd := eRnd e, ovfInf := eOvfInf e, r := if eRnd e = 2 then srRandom (eSeed e) n else 0 }
              (valAdd (valueOf (eDstFmt e) (leNat (old.map Prod.fst))) (valueOf (eSrcFmt e) x.code))).code
            let psn := x.psn || old.any Prod.snd
            exec (.scatterAdd q pos) s = .next (pump (s.setF { f with
              seq := n + 1, land := f.land.filter fun l => l.side != .dest
              wtodo := [{ side := .dest, ord := n, elem := n, part := 0, va := a, data := leBytes code w
                          psn := blockPsn a ((leBytes code w).map fun b => (b, psn)), lock := true }] }) f.id)))))

/-- What GATHER, SCATTER and SCATTER_ADD do (R133 to R143). -/
def Obligations.GleanerResults : Prop := Claims.GatherScatter ∧ Claims.ScatterAddSteps

/-- R144 to R158, R162, R224, Tables 5.2, 5.5 to 5.8 and 7.1: a CONTRACT is cut into shares, each of one plane, one slice of at most 16,384
columns of a row-sum and a group of index positions, that take in every term once. It reads its rows and scales once its indices and
operands have landed, and writes one output element for each accumulator or wide channel, converted once under RNE; its notes are raised,
and it counts the outputs, the clips, the skipped positions and the non-finite outputs. An accumulator adds exactly, saturates at 128 bits,
and its flags give NaN for an invalid term or opposing infinities. Which part has which share is the model's reading (log 8). Completes:
contract. -/
def Obligations.ContractResults : Prop :=
  (∀ (s : State) (q pos : Nat) (f : Flight),
    (let e := f.raw
     let src := eSrc e
     let shs := contractShares s.cfg.bays e src
     let t := contractTerms s e src shs f.land
     (Ready s q pos .contract .first f →
       exec (.contract q pos) s = .next (pump (s.setF {
         (match indexBadFrom e src false ((shareIndices src t shs).map (·.2.2)) with | some _ => flightBad f 0 | none => f) with
         stage := .second, todo := numbered (shareRowReads e src t.ix shs ++ contractScaleReads e src t.ix shs) }) f.id))
     ∧ (Ready s q pos .contract .second f →
       (let os := contractOuts e src t shs
        let conv (o : Output) : Conv := if eWide e = true then
            (match o.wide with | none => { code := 0 } | some v => convert (eDstFmt e) { rnd := 0, ovfInf := eOvfInf e } v)
          else accOut (eDstFmt e) (eOvfInf e) (eAccExpC e) o.acc
        let sound := os.filter fun o => !o.psn
        let m : Made := {
          es := os.map fun o => { code := (conv o).code, psn := o.psn || (conv o).gen }, elem := sound.length
          clip := (sound.filter fun o => (conv o).clip).length
          degen := ((rowIdxOnce src t shs).filter fun x => !x.psn && decide (eIdxLim e ≤ x.x)).length
          nonfin := (sound.filter fun o => outNonfin e o).length, sound := os.map fun o => !o.psn }
        let g : Flight := { f with parts := f.parts.zipIdx.map fun (p, i) => { p with accs := partAccs e src t shs i } }
        let ws := (destWrites (eDst e) (eWalk e) (eDstW e) false m.es).map fun w => { w with part := contractPart e src shs f w.elem }
        os.length = src.cnt2 * src.cnt3 * (if eCform e = 2 then src.cnt1 else src.run)
        ∧ ∃ u, exec (.contract q pos) s = .next u
          ∧ Produces u (indexNote (contractNotes (s.setF g) f src t shs os) f src (shareIndices src t shs)) g m ws
            (clashes (rdRanges (shareRowReads e src t.ix shs) ++ rdRanges (shareIndexReads e src shs) ++ rdRanges (operandReads e src shs))
              (rdRanges (contractScaleReads e src t.ix shs)) (recordRange e) ws)))))
  ∧ (∀ (s : Shape) (e n : Nat), 0 < n → 0 < s.cnt1 → 0 < s.cnt2 → 0 < s.cnt3 →
    (let shs := sharesOf n e s
     (∀ x ∈ shs, x.pl < s.cnt2 * s.cnt3 ∧ x.p1 ≤ s.cnt1 ∧ x.c1 ≤ s.run ∧ (eCform e ≠ 2 → x.c1 ≤ x.c0 + 16384))
     ∧ ∀ pl p j, pl < s.cnt2 * s.cnt3 → p < s.cnt1 → j < s.run → ∃ x, shs.filter (fun y => y.has pl p j) = [x]))
  ∧ (∀ (a : Acc) (c exp : Int) (dst : Nat) (inf : Bool),
    (let hi : Int := 2 ^ 127 - 1
     (-(2 ^ 127) ≤ c → c ≤ hi → accAdd a c = { a with s := a.s + c })
     ∧ (c < -(2 ^ 127) ∨ hi < c → bitAt (accAdd a c).fl 3 = true)
     ∧ (bitAt a.fl 0 = true → accVal a exp = .nan)
     ∧ (bitAt a.fl 1 = true → bitAt a.fl 2 = true → accVal a exp = .nan)
     ∧ (bitAt a.fl 0 = false → bitAt a.fl 1 = true → bitAt a.fl 2 = false → accVal a exp = .inf false)
     ∧ (bitAt a.fl 0 = false → bitAt a.fl 1 = false → bitAt a.fl 2 = true → accVal a exp = .inf true)
     ∧ (a.fl % 8 = 0 → accVal a exp = .fin (decide (max (-(2 ^ 127)) (min hi a.s) < 0)) (max (-(2 ^ 127)) (min hi a.s)).natAbs exp)
     ∧ (accOut dst inf exp a).code = (convert dst { rnd := 0, ovfInf := inf } (accVal a exp)).code
     ∧ (a.fl = 0 → (a.s < -(2 ^ 127) ∨ hi < a.s) → (accOut dst inf exp a).clip = true)))

/-- R172, R174, R192 to R201, R204, R206, Tables 6.5 and 6.9: when its source has been read, a LINKPUT puts one OPEN and its DATA flits on
VC0 of its port under the port's next transfer number, and a remote LINKREDUCE send on VC2; that their source is read whole first is the
model's reading (log 11). An MCAST opens a transfer to every remote receiver whose port is UP, and hands what has landed of its stream, as
it lands, to every receiver that is not detached: as the DATA flits that are full, and as local writes; when all has landed, the DATA flits
are those of the whole stream. A READS fence before them holds a LINKPUT and an MCAST. Completes: linkput, linkreduceSend, mcast. -/
def Obligations.LinkSends : Prop :=
  ∀ (s : State) (q pos : Nat) (f : Flight),
    (let e := f.raw
     let es := linkStream f
     let self := s.lnk.self.toNat
     let g := s.clk.gclk
     let puts (t : State) (n vc next : Nat) (flits : List Flit) : Prop :=
       let p := s.getP n
       (t.getP n).nextXid = next % 65536
       ∧ (t.getP n).tx0 = (if vc = 0 then p.tx0 ++ flits else p.tx0) ∧ (t.getP n).tx2 = (if vc = 0 then p.tx2 else p.tx2 ++ flits)
       ∧ { t.getP n with nextXid := p.nextXid, tx0 := p.tx0, tx2 := p.tx2, stall := p.stall } = p
       ∧ (∀ k, k ≠ n → t.getP k = s.getP k) ∧ { t with lnk.port := s.lnk.port } = s
     let sends (t : State) (n vc : Nat) (payload : List Byte) : Prop :=
       let p := s.getP n
       puts t n vc (p.nextXid + 1) (mkFlit 4 vc p.nextXid payload :: dataFlits vc p.nextXid (eSrcW e) es)
     (Ready s q pos .linkput .first f → fencedWrites s f = false →
       ∃ t x, x = { port := eLport e, xid := (s.getP (eLport e)).nextXid, firstAt := g, lastAt := g : Xfer }
         ∧ sends t (eLport e) 0 (putOpen self (eRchip e) (eSrcFmt e) (eRtally e) (eSrc e).total (eDst e) (eWalk e))
         ∧ exec (.linkput q pos) s = .next (pump (t.setF { f with stage := .writing, land := [], xfers := [x] }) f.id))
     ∧ (Ready s q pos .linkreduce .first f → eHome e = false → f.local_ = false →
       ∃ t x, x = { port := eLport e, xid := (s.getP (eLport e)).nextXid, firstAt := g, lastAt := g, busy := f.xfers.any (·.busy)
                    old := f.xfers.flatMap fun y => y.xid :: y.old : Xfer }
         ∧ sends t (eLport e) 2 (redOpen self (eRchip e) (if eRawIn e = true then 32 else eSrcFmt e) (eRid e) (ePcnt e) (eRedE e) (eAccExpL e))
         ∧ exec (.linkreduceSend q pos) s = .next (pump (t.setF { f with stage := .writing, xfers := [x] }) f.id))
     ∧ (Ready s q pos .mcast .first f → fencedWrites s f = false → (∃ p ∈ f.parts, p.ctx.isSome = true) →
       ∃ t u ws xs rs h, rs = (receivers f.list).filter (fun r => !f.xfers.any fun x => x.idx == r.idx)
         ∧ openRcvs s f rs = (t, xs)
         ∧ h = { f with stage := .writing, xfers := f.xfers ++ xs, cut := xs.any fun x => x.detached }
         ∧ feedRcvs t h (mcastClash e es (receivers f.list)) es (eSrc e).total h.xfers = (u, ws)
         ∧ exec (.mcast q pos) s = .next (pump (mcastStop (u.setF { h with
             seq := max f.seq (eSrc e).total, wtodo := ws, land := [] }) f.id) f.id))
     ∧ (∀ r : Rcv,
        (r.remote = true → (s.getP r.port).state = .up → ∃ t x, openRcv s f r = (t, x)
          ∧ x = { port := r.port, xid := (s.getP r.port).nextXid, idx := r.idx, firstAt := g, lastAt := g : Xfer }
          ∧ puts t r.port 0 ((s.getP r.port).nextXid + 1)
              [mkFlit 4 0 (s.getP r.port).nextXid (putOpen self r.chip (eSrcFmt e) r.rtally (eSrc e).total { eDst e with base := r.base } (eWalk e))])
        ∧ (r.remote = true → (s.getP r.port).state ≠ .up → ∃ x, openRcv s f r = (s, x) ∧ x.detached = true ∧ x.idx = r.idx)
        ∧ (r.remote = false → ∃ x, openRcv s f r = (s, x) ∧ x.loc = true ∧ x.result = some 0 ∧ x.idx = r.idx))
     ∧ (∀ (x : Xfer) (a : Nat),
        (let total := (eSrc e).total
         let w := eSrcW e
         (x.detached = true ∨ a ≤ f.seq → feedRcv s f false es a x = (s, []))
         ∧ (x.detached = false → f.seq < a → x.loc = false → (s.getP x.port).nextXid < 65536 →
             ∃ t, feedRcv s f false es a x = (t, [])
               ∧ puts t x.port 0 (s.getP x.port).nextXid (((dataFlits 0 x.xid w es).take (flitsFull w total a)).drop (flitsFull w total f.seq)))
         ∧ (∀ r, x.detached = false → f.seq < a → x.loc = true → (receivers f.list).find? (fun r => r.idx == x.idx) = some r →
             feedRcv s f false es a x = (s, ((destWrites { eDst e with base := r.base } (eWalk e) (eDstW e) false es).map fun v =>
               { v with rcv := r.idx }).filter fun v => decide (f.seq < (writeSpan (eDst e) (eDstW e) v).2)
                 && decide ((writeSpan (eDst e) (eDstW e) v).2 ≤ a)))
         ∧ (a < total → 1920 * flitsFull w total a ≤ w * a ∧ w * a < 1920 * (flitsFull w total a + 1))
         ∧ (es.length = total → (dataFlits 0 x.xid w es).length = flitsFull w total total))))

/-- R205 to R212, R339: an open bin takes a local contribution whose source has been read: each element enters its accumulator
exactly, and the
bin counts it. A home that finds no bin opens one within the limit, on loft of the bays, and waits; when the bin is complete and its home
dispatched, the result, each accumulator's value converted once under RNE, is written in locked sequences, one for each granule.
Completes: linkreduceSend, linkreduceHome, binResultWrite. -/
def Obligations.ReductionBins : Prop :=
  ∀ (s : State) (q pos : Nat) (f : Flight),
    (let e := f.raw
     let mark := if eRawIn e = true then 32 else eSrcFmt e
     let es := linkStream f
     let taken (b : Bin) (faulted : Bool) (m : Nat) (l : List Elem) : Bin := { b with
       accs := b.accs.zipIdx.map fun (a, i) => match l[i]? with | some x => enterElem b.accExp m a x | none => a
       count := b.count + 1, idle := 0, fed := true, mark := some m, faulted := b.faulted || faulted }
     (∀ b, Ready s q pos .linkreduce .first f → eHome e = false → f.local_ = true → (∃ p ∈ f.parts, p.ctx.isSome = true) →
         f.seq = 1 → binOf s (eRid e) = some b → b.count < b.pcnt →
       exec (.linkreduceSend q pos) s = .next (pump ((setBin s (taken b false mark es)).setF { f with stage := .writing, land := [] }) f.id))
     ∧ (∀ b, Ready s q pos .linkreduce .first f → eHome e = true → eHomeSrc e = true → (∃ p ∈ f.parts, p.ctx.isSome = true) →
         f.seq = 1 → binOf s (eRid e) = some b → b.count < b.pcnt →
       exec (.linkreduceHome q pos) s = .next ((setBin s (taken b false mark es)).setF { f with stage := .second, land := [] }))
     ∧ (∀ t, Ready s q pos .linkreduce .first f → eHome e = true → eHomeSrc e = false → (∃ p ∈ f.parts, p.ctx.isSome = true) →
         f.seq = 0 → binOf s (eRid e) = none →
         openBin s { rid := eRid e, pcnt := ePcnt e, rede := eRedE e, accExp := eAccExpL e, mark := none, accs := [], home := some f.id } = some t →
       exec (.linkreduceHome q pos) s = .next (t.setF { f with seq := 1, stage := .second, land := [] }))
     ∧ (∀ (b : Bin) t, openBin s b = some t →
         (∃ sl, sl.length = (b.rede + 16383) / 16384 ∧ (∀ k ∈ sl, k < s.cfg.bays)
           ∧ t.lnk.bins = s.lnk.bins ++ [{ b with slices := sl, accs := List.replicate b.rede {} }])
         ∧ (s.lnk.bins.map fun b => b.slices.length).sum + (b.rede + 16383) / 16384 ≤ s.lnk.binLimit
         ∧ { t with lnk.bins := s.lnk.bins, bay := s.bay } = s)
     ∧ (∀ b, s.runs = true → s.eng.state ≠ .safe → binOf s (eRid e) = some b → homeOf s b = some f → b.pcnt ≤ b.count → b.writing = false →
         f.stage = .second → fencedWrites s f = false →
         (let elems := b.accs.map fun a => if eRawOut e = true then { code := accRaw a, psn := bitAt a.fl 4 }
            else { code := (accOut (eDstFmt e) (eOvfInf e) b.accExp a).code
                   psn := bitAt a.fl 4 || (accOut (eDstFmt e) (eOvfInf e) b.accExp a).gen : Elem }
          let ws := (destWrites (eDst e) (eWalk e) (eDstW e) false elems).flatMap (granuleCut (eDstW e))
          (eHomeSrc e = true → rangesMeet (wrRanges ws) (rdRanges (linkReads e)) = false) →
          exec (.binResultWrite (eRid e)) s = .next (pump ((setBin s { b with writing := true }).setF
            { f with stage := .writing, todo := granuleReads ws, wtodo := ws, land := [], bad := f.bad || b.faulted }) f.id)))
     ∧ (∀ (w : Nat) (r : WrReq), r.data ≠ [] → ∀ x ∈ granuleCut w r, x.lock = true ∧ x.va / 256 = (x.va + x.data.length - 1) / 256
         ∧ r.va ≤ x.va ∧ x.va + x.data.length ≤ r.va + r.data.length
         ∧ ∀ i, i < x.data.length → x.data[i]? = r.data[x.va - r.va + i]?))

/-- R206, R215, R218: a whole contribution is sent again 1,400 GCLK after a BUSY answer, with the time of its first OPEN kept;
once LNK_TIMEOUT
has passed since that OPEN, the bin-unavailable fault is recorded and the send is cut off, also while it is being sent again; a bin that
no contribution has entered for its idle ticks is abandoned with the stalled fault, under the port and chip that opened it (the model's
choice, log 39). Completes: busyRetry, reduceBinUnavailable, reduceBinIdleAbandon. -/
def Claims.ReductionTimers : Prop :=
  ∀ (s : State) (q pos : Nat), s.runs = true →
    (∀ f x, s.flightAt q pos = some f → f.stage ≠ .complete →
      (let e := f.raw
       let port := if x.loc = true then 0xFFFF else x.port
       (f.xfers.find? (fun x => !x.loc && x.result.isNone && x.busyAt.isSome) = some x → s.eng.state ≠ .safe → (s.getP x.port).state = .up →
         (∀ a, x.busyAt = some a → a + 1400 ≤ s.clk.gclk) →
         ∃ t : State, exec (.busyRetry q pos) s = .next (pump (t.setF { f with stage := .writing, xfers := [{
             port := x.port, xid := (s.getP x.port).nextXid, firstAt := x.firstAt, lastAt := s.clk.gclk
             busy := f.xfers.any (·.busy), old := f.xfers.flatMap fun y => y.xid :: y.old }] }) f.id)
           ∧ (t.getP x.port).tx2 = (s.getP x.port).tx2 ++ mkFlit 4 2 (s.getP x.port).nextXid (redOpen s.lnk.self.toNat (eRchip e) (redMark e)
               (eRid e) (ePcnt e) (eRedE e) (eAccExpL e)) :: dataFlits 2 (s.getP x.port).nextXid (eSrcW e) (linkStream f)
           ∧ (∀ k, k ≠ x.port → t.getP k = s.getP k) ∧ { t with lnk.port := s.lnk.port } = s)
       ∧ (f.xfers.find? (fun x => x.result.isNone && (x.busyAt.isSome || x.busy)) = some x → x.firstAt + 700 * s.start.lnk.timeout.toNat ≤ s.clk.gclk →
         exec (.reduceBinUnavailable q pos) s = .next (recordCuts (cutByLink s f.id) [{
           src := 0xC, unit := port, inst := some (q, pos), detail := eRid e + eRchip e * 2 ^ 16 }]))))
    ∧ (∀ rid b, binOf s rid = some b → s.lnk.binIdle ≠ 0#16 → b.count < b.pcnt → s.lnk.binIdle.toNat ≤ b.idle →
        ∃ v, exec (.reduceBinIdleAbandon rid) s = .next (recordCuts v [{ src := 0xD, unit := b.port.getD 0xFFFF, detail := rid + b.chip * 2 ^ 16 }])
          ∧ v.lnk.bins = s.lnk.bins.filter (fun x => x.rid != rid) ∧ v.lnk.contribs = s.lnk.contribs.filter (fun c => c.rid != rid))
    ∧ (∀ rid b, binOf s rid = some b → (s.lnk.binIdle = 0#16 ∨ b.idle < s.lnk.binIdle.toNat) → exec (.reduceBinIdleAbandon rid) s = .next s)

/-- R199, R200: a receiver of an MCAST for which staged data have waited for MCAST_STALL as the GCLK began, with no VC0 credit on its port
or, of a local one, with no write granted, is detached: the note is recorded with its list index, what waits for it is dropped, a remote one
is sent a CANCEL, and the MCAST is cut off, while its other receivers go on, its part with them only while one is left; data taken in a GCLK
end the waiting. Completes: multicastDetach. -/
def Claims.MulticastDetach : Prop :=
  ∀ (s : State) (q pos idx : Nat) (f : Flight) (x : Xfer), s.runs = true → s.flightAt q pos = some f → opOf f.raw = some .mcast →
    f.stage = .writing → f.xfers.find? (fun x => x.idx == idx && !x.detached) = some x →
    (let stall := 700 * s.start.lnk.mcStall.toNat
     let p := s.getP x.port
     let xs := f.xfers.map fun y => if y.idx = idx then { y with detached := true, result := some 2 } else y
     let note (unit chip : Nat) : Ev := { src := 0x1A, sub := idx, unit, inst := some (q, pos), detail := chip }
     let waited := ∃ a, x.stallAt = some a ∧ a + stall ≤ s.clk.gclk
     (x.loc = true → (∃ w ∈ f.wtodo, w.rcv = idx ∧ inWindow f w = true) → x.lastAt ≠ s.clk.gclk → waited →
       exec (.multicastDetach q pos idx) s = .next (pump (mcastStop ((raise s (note 0xFFFF 0)).setF { f with
         cut := true, wtodo := f.wtodo.filter fun w => w.rcv != idx, xfers := xs }) f.id) f.id))
     ∧ (∀ k, x.loc = false → p.tx0.find? (fun k => k.xid == x.xid) = some k → flitStaged f x k = true →
         p.adv.getD 0 0 + p.seen.getD 0 0 ≤ p.sent.getD 0 0 → (x.sent = 0 ∨ x.lastAt ≠ s.clk.gclk) → waited →
       ∃ v chip, exec (.multicastDetach q pos idx) s
           = .next (pump (mcastStop ((raise v (note x.port chip)).setF { f with cut := true, xfers := xs }) f.id) f.id)
         ∧ (∀ g ∈ (v.getP x.port).tx0, g.xid ≠ x.xid)
         ∧ (v.getP x.port).tx3 = (if p.state = .up then p.tx3 ++ [mkFlit 7 3 x.xid []] else p.tx3)
         ∧ (∀ n, n ≠ x.port → v.getP n = s.getP n) ∧ { v with lnk.port := s.lnk.port } = s)
     ∧ (¬ waited → exec (.multicastDetach q pos idx) s = .next s)
     ∧ (x.loc = true → (∀ w ∈ f.wtodo, w.rcv ≠ idx) → exec (.multicastDetach q pos idx) s = .next s)
     ∧ (x.loc = false → x.sent ≠ 0 → x.lastAt = s.clk.gclk → exec (.multicastDetach q pos idx) s = .next s)
     ∧ (∀ y : Xfer, y.loc = true → y.lastAt = s.clk.gclk → (keepStall s f y).stallAt = none)
     ∧ (∀ y : Xfer, y.loc = false → y.sent ≠ 0 → y.lastAt = s.clk.gclk → (keepStall s f y).stallAt = none)
     ∧ (∀ u : State, (∀ r ∈ receivers f.list, ∃ y ∈ f.xfers, y.idx = r.idx ∧ y.detached = true) → u.flightOf f.id = some f →
         mcastStop u f.id = each u (List.range f.parts.length) fun u i => cutPart u f.id i))

/-- Reduction bins left idle, sends that retry, and receivers of an MCAST that stall (R200, R206, R215). -/
def Obligations.TimersAndDetach : Prop := Claims.ReductionTimers ∧ Claims.MulticastDetach

/-! ### Link ports (06) -/

/-- R179 to R181: a port in DOWN leaves for HELLO, with the next incarnation and a HELLO due, when it is enabled, its PHY is up and LNK_SELF
is set, whichever comes last, and the self-test does not run (R439); a write of enable 0, or of reset 1, returns it to DOWN with its
connection cleared and ends its receive streams; in HELLO a HELLO falls due every 700 GCLK. Completes: linkEnable, linkReset, phyUpRise,
helloTimer. -/
def Obligations.PortControl : Prop :=
  ∀ (s : State) (n port : Nat) (value : Word), n < s.cfg.linkPorts →
    (let p := s.getP n
     let hello (x : Port) : Port := { x with
       state := .hello, incarn := (x.incarn + 1) % 256, helloDue := true, helloAt := s.clk.gclk, goodAt := s.clk.gclk }
     let w : Port := { p with enable := true, rxClass := value.toNat / 16 % 8 }
     let only (u t : State) (x : Port) : Prop := u.getP n = x ∧ (∀ k, k ≠ n → u.getP k = t.getP k) ∧ { u with lnk.port := t.lnk.port } = t
     let ready := p.phyUp = true ∧ s.lnk.self ≠ 0xFFFF#16 ∧ s.eng.state ≠ .test
     (Reaches s port (pReg n 4) →
       (value.getLsbD 0 = true → value.getLsbD 1 = false →
         (p.state = .down → ready → ∃ u, exec (.linkEnable port n value) s = .next u ∧ only u (noteWrite s port (pReg n 4)) (hello w))
         ∧ ((p.state ≠ .down ∨ ¬ ready) → ∃ u, exec (.linkEnable port n value) s = .next u ∧ only u (noteWrite s port (pReg n 4)) w))
       ∧ (∀ i, (i = .linkEnable port n value ∧ value.getLsbD 0 = false) ∨ (i = .linkReset port n value ∧ value.getLsbD 1 = true) →
           ∃ u x, exec i s = .next u ∧ u.getP n = x ∧ x.state = .down
             ∧ x.enable = value.getLsbD 0 ∧ x.rxClass = value.toNat / 16 % 8 ∧ x.incarn = p.incarn ∧ x.phyUp = p.phyUp
             ∧ x.fenceCause = 0 ∧ x.peerValid = false ∧ x.peerId = 0 ∧ x.replay = [] ∧ x.resend = [] ∧ x.held = []
             ∧ (∀ f ∈ u.flights, ∀ r, f.rx = some r → r.port = n → r.ended = true)))
     ∧ (s.runs = true → p.phyUp = false →
         (p.state = .down → p.enable = true → s.lnk.self ≠ 0xFFFF#16 → s.eng.state ≠ .test →
           ∃ u, exec (.phyUpRise n) s = .next u ∧ only u s (hello { p with phyUp := true }))
         ∧ ((p.state ≠ .down ∨ p.enable = false ∨ s.lnk.self = 0xFFFF#16 ∨ s.eng.state = .test) →
           ∃ u, exec (.phyUpRise n) s = .next u ∧ only u s { p with phyUp := true }))
     ∧ (s.runs = true → p.state = .hello →
         (p.helloAt + 700 ≤ s.clk.gclk → exec (.helloTimer n) s = .next (s.setP n { p with helloDue := true, helloAt := s.clk.gclk }))
         ∧ (s.clk.gclk < p.helloAt + 700 → exec (.helloTimer n) s = .next s)))

/-- R168, R179, R182 to R184, R187 to R189, R220, R265: in its flit slot a port in UP sends a NAK that is due, else an answering HELLO, else
a flit being replayed, else a RESP or CANCEL, else an OPEN or DATA, VC0 and VC2 in turn, that of the bay its arbiter grants, else an IDLE;
in SAFE a HELLO answer or an IDLE. A new flit of a channel takes the next seq, spends a credit and stays for replay; every flit carries ack,
up and the credit returns. The first OPEN of a transfer begins its time (R206), and a DATA flit ends its receiver's stall (R200). A port in
DOWN sends nothing, one in FENCED an IDLE. That a VC1 flit goes before a VC3 one is the model's choice (log 11), and so is that a flit of a
bay which is not granted waits, and that none keeps a loss or a grant when none is ready (log 35). Completes: transmitFlit. -/
def Obligations.FlitsSent : Prop :=
  ∀ (s : State) (n : Nat), s.runs = true → n < s.cfg.linkPorts →
    (let p := s.getP n
     let out (f : Flit) : List Byte := flitBytes { f with ack := p.ack, up := p.state == .up, crd := p.ret.map fun c => c % 256 }
     let hello := mkFlit 1 0 0 (helloPayload s.lnk.self.toNat n p.incarn)
     let idle := mkFlit 0 0 0 []
     let held := s.eng.state = .safe
     let sends (f : Flit) (x : Port) : Prop := ∃ u, exec (.transmitFlit n) s = .next u
       ∧ { u.getP n with stall := p.stall } = { x with tx := out f, stall := p.stall }
       ∧ (∀ k, k ≠ n → u.getP k = s.getP k) ∧ { u with lnk.port := s.lnk.port } = s
     let took (k : Flit) (f : Flight) : Flight := { f with xfers := f.xfers.map fun x =>
         if !x.loc && x.port == n && x.xid == k.xid then
           if k.kind = 5 then { x with sent := x.sent + 240, lastAt := s.clk.gclk, stallAt := none }
           else if k.kind = 4 ∧ x.busy = false then { x with firstAt := s.clk.gclk } else x
         else x }
     let goes (k : Flit) (b : Port) (data : Bool) : Prop := ∃ (u : State) (x : Port), exec (.transmitFlit n) s = .next u
       ∧ { u.getP n with stall := p.stall } = { x with tx := out { k with seq := p.nextSeq }, stall := p.stall }
       ∧ (∀ j, j ≠ n → u.getP j = s.getP j) ∧ u.flights = (if data then s.flights.map (took k) else s.flights)
       ∧ { u with lnk.port := s.lnk.port, flights := s.flights } = s
       ∧ x.nextSeq = (p.nextSeq + 1) % 4096 ∧ x.replay = p.replay ++ [{ k with seq := p.nextSeq }]
       ∧ x.sent = p.sent.set k.vc (p.sent.getD k.vc 0 + 1)
       ∧ (∀ v, v < 4 → x.waiting v = if v = k.vc then (p.waiting v).erase k else p.waiting v)
       ∧ { x with tx := b.tx, nextSeq := b.nextSeq, replay := b.replay, sent := b.sent, tx0 := b.tx0, tx1 := b.tx1, tx2 := b.tx2, tx3 := b.tx3 } = b
     let open_ := p.state = .up ∧ (p.nakDue = false ∨ held) ∧ p.helloDue = false ∧ ¬ held ∧ p.confirmed = true ∧ p.resend = []
     let calm := p.state = .up ∧ (p.nakDue = false ∨ held) ∧ p.helloDue = false
     (p.state = .up → p.nakDue = true → ¬ held → sends (mkFlit 2 0 0 []) { p with
         nakDue := false, nakCnt := if p.recover = true then p.nakCnt + 1 else p.nakCnt, nakAt := s.clk.gclk })
     ∧ (p.state = .up → (p.nakDue = false ∨ held) → p.helloDue = true → sends hello { p with helloDue := false })
     ∧ (calm → (held ∨ p.confirmed = false) → sends idle p)
     ∧ (∀ f r, calm → ¬ held → p.confirmed = true → p.resend = f :: r → sends f { p with resend := r })
     ∧ (open_ → 384 ≤ p.replay.length → sends idle p)
     ∧ (∀ k, open_ → p.replay.length < 384 → p.answer = some k → k.vc < 4 → goes k p false)
     ∧ (∀ k b, open_ → p.replay.length < 384 → p.answer = none → txRound s n p = (some k, b) → k.vc < 4 → goes k b true)
     ∧ (∀ b, open_ → p.replay.length < 384 → p.answer = none → txRound s n p = (none, b) → sends idle b)
     ∧ (p.state = .hello → p.helloDue = true → sends hello { p with helloDue := false })
     ∧ ((p.state = .hello ∧ p.helloDue = false) ∨ p.state = .fenced → sends idle p)
     ∧ (p.state = .down → ∃ u, exec (.transmitFlit n) s = .next u ∧ { u.getP n with stall := p.stall } = p
         ∧ (∀ k, k ≠ n → u.getP k = s.getP k) ∧ { u with lnk.port := s.lnk.port } = s))
    ∧ (∀ (p : Port),
      (let ok (vc : Nat) : Prop := p.sent.getD vc 0 < p.adv.getD vc 0 + p.seen.getD vc 0
       (∀ k, p.answer = some k → ∃ vc, (vc = 1 ∨ vc = 3) ∧ ok vc ∧ (p.waiting vc).head? = some k)
       ∧ (∀ k, ok 1 → p.tx1.head? = some k → p.answer = some k)
       ∧ (∀ k b, txRound s n p = (some k, b) → ∃ vc, (vc = 0 ∨ vc = 2) ∧ ok vc ∧ k ∈ p.waiting vc ∧ b.turn2 = decide (vc = 0)
           ∧ { b with arb := p.arb, turn2 := p.turn2 } = p)
       ∧ (∀ b, txRound s n p = (none, b) → { b with arb := p.arb } = p)
       ∧ (txReady s n p 0 = [] → txReady s n p 2 = [] → txRound s n p = (none, { p with arb := [] }))
       ∧ (∀ v w, v = (if p.turn2 = true then 2 else 0) → w = (if p.turn2 = true then 0 else 2) → (∀ x ∈ p.arb, x.2.hold = false) →
           ((∃ t ∈ txReady s n p v, t.bay < s.cfg.bays) →
             ∃ t b, t ∈ txReady s n p v ∧ txRound s n p = (some t.flit, b))
           ∧ (txReady s n p v = [] → (∃ t ∈ txReady s n p w, t.bay < s.cfg.bays) →
             ∃ t b, t ∈ txReady s n p w ∧ txRound s n p = (some t.flit, b)))))

/-- R180, R182 to R185, R189: a port in HELLO enters UP on a good HELLO with the peer recorded, its credits and a clean sequence;
in UP a HELLO
of the same peer is answered; a good flit with up = 1 confirms the port, frees the flits its ack covers and returns the credits that its
counts show, modulo 256; a NAK has every flit kept sent again. That the HELLO which takes the
port into UP does not confirm it is the model's choice (log 39).
Completes: receiveIdle,
receiveNak, receiveHello. -/
def Obligations.FlitsHeard : Prop :=
  ∀ (s : State) (n : Nat) (f : Flit), s.runs = true → n < s.cfg.linkPorts → flitBad s n f = none →
    (let p := s.getP n
     let g := s.clk.gclk
     let only (u : State) (x : Port) : Prop := { u.getP n with stall := p.stall } = x ∧ (∀ k, k ≠ n → u.getP k = s.getP k)
       ∧ { u with lnk.port := s.lnk.port, flights := s.flights } = s
     let kept := if p.replay.any fun y => y.seq == f.ack then (p.replay.dropWhile fun y => y.seq != f.ack).tail else p.replay
     let told : Port := { p with
       goodAt := g, confirmed := true, replay := kept, resend := p.resend.filter fun x => kept.any fun y => y.seq == x.seq
       seen := p.seen.zipIdx.map fun (c, vc) => c + (f.crd.getD vc 0 + 256 - c % 256) % 256 }
     (f.kind = 0 → p.state = .up → f.up = true → ∃ u, exec (.receiveIdle n f) s = .next u ∧ only u told)
     ∧ (f.kind = 0 → (p.state = .hello ∨ (p.state = .up ∧ f.up = false)) →
         ∃ u, exec (.receiveIdle n f) s = .next u ∧ only u { p with goodAt := g })
     ∧ (f.kind = 0 → (p.state = .down ∨ p.state = .fenced) → exec (.receiveIdle n f) s = .next s)
     ∧ (f.kind = 2 → p.state = .up → f.up = true → kept ≠ [] →
         ∃ u, exec (.receiveNak n f) s = .next u ∧ only u { told with resend := kept, replayCnt := p.replayCnt + 1 })
     ∧ (f.kind = 1 → p.state = .hello → ∃ u, exec (.receiveHello n f) s = .next u ∧ (∀ k, k ≠ n → u.getP k = s.getP k)
         ∧ { u with lnk.port := s.lnk.port } = s
         ∧ (let x := u.getP n
            x.state = .up ∧ x.peerValid = true ∧ x.peerId = payNat f 0 2 ∧ x.peerPort = payNat f 2 1 ∧ x.peerIncarn = payNat f 9 1
            ∧ x.adv = [payNat f 4 1, payNat f 5 1, payNat f 6 1, payNat f 7 1] ∧ x.sent = [0, 0, 0, 0] ∧ x.seen = [0, 0, 0, 0]
            ∧ x.ret = [0, 0, 0, 0] ∧ x.nextSeq = 0 ∧ x.ack = 4095 ∧ x.confirmed = false ∧ x.replay = [] ∧ x.goodAt = g ∧ x.incarn = p.incarn))
     ∧ (f.kind = 1 → p.state = .up → payNat f 0 2 = p.peerId → payNat f 2 1 = p.peerPort → payNat f 3 1 % 4 = p.peerKind →
         payNat f 9 1 = p.peerIncarn →
         ∃ u, exec (.receiveHello n f) s = .next u
           ∧ only u (if f.up = true then { told with helloDue := true } else { p with goodAt := g, helloDue := true }))
     ∧ (f.kind = 1 → p.state = .up → payNat f 9 1 ≠ p.peerIncarn → ∃ u v, exec (.receiveHello n f) s = .next u
         ∧ u = v.modP n (fun x => { enterUp g f x with helloDue := true })
         ∧ (∃ x : Port, x.replay = [] ∧ x.held = [] ∧ x.tx0 = [] ∧ x.tx2 = [] ∧ x.confirmed = false ∧ x.state = .up
             ∧ v = portCut (s.setP n x) n p.held [{ src := 0x17, sub := 4, unit := n, detail := f.kind + f.vc * 16 }])))

/-- R171, R182, R185, R186, R216, R218: a bad flit is counted but in DOWN, a good CRC's violation is noted in HELLO and UP, a HELLO of
another version in every state, and a port in UP owes a NAK and discards what follows until the expected flit comes; the NAK is repeated
after 700 GCLK, and when one falls due after 16, by a bad flit or by its time, the port is fenced (log 11, the model's reading); a port that
has heard no good flit for LNK_TIMEOUT, as it stood when the GCLK began, is fenced. Fencing records its fault for the port. Completes:
receiveBadFlit, nakRepeatTimer, peerLost. -/
def Claims.BadFlitsAndPeerLoss : Prop :=
  (∀ (s : State) (n : Nat), s.runs = true → n < s.cfg.linkPorts →
    (let p := s.getP n
     let counted : Port := { p with crcCnt := p.crcCnt + 1 }
     let seen : State := if p.state = .down then s else s.setP n counted
     let late := 700 * s.start.lnk.timeout.toNat
     let spent := p.recover = true ∧ 16 ≤ p.nakCnt
     let noted (sub : Nat) (f : Flit) : State := raise (s.setP n counted) { src := 0x17, sub, unit := n, detail := f.kind + f.vc * 16 }
     (p.state = .up → ¬ spent →
         (∀ raw, exec (.receiveBadFlit n true raw) s = .next (s.setP n { counted with recover := true, nakDue := true }))
         ∧ (∀ rxBad raw, parseFlit raw = none → exec (.receiveBadFlit n rxBad raw) s = .next (s.setP n { counted with recover := true, nakDue := true }))
         ∧ (∀ raw f sub, parseFlit raw = some f → flitBad s n f = some sub → exec (.receiveBadFlit n false raw) s
             = .next ((noted sub f).modP n fun x => { x with recover := true, nakDue := true })))
     ∧ (p.state = .up → spent →
         (∀ raw, exec (.receiveBadFlit n true raw) s = .next (fencePort (s.setP n counted) n 2 0xF))
         ∧ (∀ rxBad raw, parseFlit raw = none → exec (.receiveBadFlit n rxBad raw) s = .next (fencePort (s.setP n counted) n 2 0xF))
         ∧ (∀ raw f sub, parseFlit raw = some f → flitBad s n f = some sub →
             exec (.receiveBadFlit n false raw) s = .next (fencePort (noted sub f) n 2 0xF)))
     ∧ (∀ raw f sub, p.state ≠ .up → parseFlit raw = some f → flitBad s n f = some sub →
         exec (.receiveBadFlit n false raw) s = .next (if p.state = .hello ∨ sub = 5 then
           raise seen { src := 0x17, sub, unit := n, detail := f.kind + f.vc * 16 } else seen))
     ∧ (∀ raw f, parseFlit raw = some f → flitBad s n f = none → exec (.receiveBadFlit n false raw) s = .next s)
     ∧ (∀ raw, (p.state = .hello ∨ p.state = .fenced) → exec (.receiveBadFlit n true raw) s = .next (s.setP n counted))
     ∧ (∀ raw, p.state = .down → exec (.receiveBadFlit n true raw) s = .next s)
     ∧ (p.state = .up → p.recover = true → p.nakDue = false → p.nakAt + 700 ≤ s.clk.gclk →
         (p.nakCnt < 16 → exec (.nakRepeatTimer n) s = .next (s.setP n { p with nakDue := true }))
         ∧ (16 ≤ p.nakCnt → exec (.nakRepeatTimer n) s = .next (fencePort s n 2 0xF)))
     ∧ ((p.state = .hello ∨ p.state = .up) → p.goodAt + late ≤ s.clk.gclk → exec (.peerLost n) s = .next (fencePort s n 1 0xE))
     ∧ (s.clk.gclk < p.goodAt + late → exec (.peerLost n) s = .next s)))
  ∧ (∀ (s : State) (n cause src : Nat), ∃ x : Port,
      fencePort s n cause src
        = portCut (s.setP n x) n (s.getP n).held [{ src, unit := n, detail := (s.getP n).peerId + (s.getP n).peerKind * 2 ^ 16 }]
      ∧ x.state = .fenced ∧ x.fenceCause = cause ∧ x.replay = [] ∧ x.resend = [] ∧ x.tx0 = [] ∧ x.tx2 = [] ∧ x.held = [])

/-- R177, R195, R202, R219, R221, Table 6.5: an OPEN for another chip is answered MISROUTE and noted; a PUT OPEN starts a receive
stream on the
bay with a free context, and waits with its slot kept when there is none; a DATA flit's bytes go to their stream, whose whole writes are
issued; a CANCEL ends the stream; when its writes are answered, the stream delivers its arrival, sends its RESP unless it was ended, and
gives up its context, with the loss and grant it had at the bay's arbiters (R265). That a PUT is taken on
either channel, and its elems not looked at, is the model's choice (log 39).
Completes: receiveOpenPut, receiveData, receiveCancel, receiveStreamComplete. -/
def Obligations.ReceiveStreams : Prop :=
  ∀ (s : State) (n : Nat) (f : Flit),
    (let t := acked s n f
     (InOrder s n f → f.kind = 4 → payNat f 4 1 = 1 →
       (payNat f 2 2 ≠ s.lnk.self.toNat → exec (.receiveOpenPut n f) s
         = .next (raise (sendResp (freeSlots t n f.vc 1) n f.xid 5) { src := 0x18, unit := n, detail := payNat f 2 2 }))
       ∧ (∀ b, payNat f 2 2 = s.lnk.self.toNat → rxBay t = some b → (s.getB b).ctxs.length < 128 →
           ∃ u c, exec (.receiveOpenPut n f) s = .next (freeSlots u n f.vc 1) ∧ c < 128 ∧ c ∉ (s.getB b).ctxs
             ∧ (u.getB b).ctxs = c :: (s.getB b).ctxs ∧ u.nextId = s.nextId + 1
             ∧ u.flights = t.flights ++ [{
                 id := s.nextId, q := 0, pos := 0, raw := 0, parts := [{ bay := b, ctx := some c, since := s.clk.gclk }]
                 rx := some { port := n, xid := f.xid, vc := f.vc, fmt := payNat f 5 1 % 32, elems := payNat f 8 8, shape := openShape f
                              rtally := if payNat f 6 2 ≥ 0x8000 then some (payNat f 6 2 % 16384) else none
                              walk := payNat f 64 1 % 8, at_ := s.clk.gclk } }])
       ∧ (payNat f 2 2 = s.lnk.self.toNat → rxBay t = none → placeBay t t.nextId = none →
           exec (.receiveOpenPut n f) s = .next (t.modP n fun p => { p with held := p.held ++ [f] })))
     ∧ (∀ g r, InOrder s n f → f.kind = 5 → (∀ o ∈ (s.getP n).held, o.xid ≠ f.xid) → t.rxAt n f.xid = some g → t.flightOf g.id = some g →
         g.rx = some r → r.ended = false → r.lastSeen = false → g.cut = false →
         (let r' : RxOpen := { r with bytes := r.bytes ++ f.payload, chunks := r.chunks ++ (List.range 15).map f.pmask.getLsbD
                                      lastSeen := f.last, at_ := s.clk.gclk }
          let ws := rxWrites r' g.seq
          exec (.receiveData n f) s = .next (pump ((freeSlots t n f.vc 1).setF
            { g with rx := some r', wtodo := g.wtodo ++ ws, seq := g.seq + ws.length }) g.id)))
     ∧ (∀ g r, InOrder s n f → f.kind = 7 → (∀ o ∈ (s.getP n).held, o.xid ≠ f.xid) → t.rxAt n f.xid = some g → g.rx = some r →
         exec (.receiveCancel n f) s = .next ((freeSlots t n f.vc 1).setF { g with rx := some { r with ended := true }, wtodo := [] }))
     ∧ (InOrder s n f → (f.kind = 5 ∨ f.kind = 7) → (∀ o ∈ (s.getP n).held, o.xid ≠ f.xid) → t.rxAt n f.xid = none →
         (∀ c ∈ s.lnk.contribs, c.port ≠ n ∨ c.xid ≠ f.xid) →
         exec (if f.kind = 5 then .receiveData n f else .receiveCancel n f) s = .next (freeSlots t n f.vc 1)))
    ∧ (∀ xid g r p c, s.runs = true → s.rxAt n xid = some g → s.flightOf g.id = some g → g.rx = some r →
        (r.lastSeen = true ∨ r.ended = true ∨ g.cut = true) → g.wtodo = [] → (∀ w ∈ s.writes, w.flight ≠ g.id) → g.recd = g.faults.length →
        g.parts = [p] → p.ctx = some c → p.gone = false → c < 128 →
        (let k : Arr := if r.ended = true ∨ g.cut = true then .abandoned else if g.bad = true then .faulted else .normal
         ∃ u v w, exec (.receiveStreamComplete n xid) s = .next u
           ∧ v = (match r.rtally with | some y => arrive s y k 1 | none => s)
           ∧ w.getB p.bay = { s.getB p.bay with
               ctxs := (s.getB p.bay).ctxs.erase c, loft := (s.getB p.bay).loft - p.loft, since := s.clk.gclk
               rdArb := (s.getB p.bay).rdArb.filter (·.1 != c), wrArb := (s.getB p.bay).wrArb.filter (·.1 != c) }
           ∧ w.flights = s.flights.filter (fun h => h.id != g.id)
           ∧ { w with bay := s.bay, flights := s.flights } = v
           ∧ u = (if r.ended = true ∨ s.eng.state = .safe then w else sendResp w n xid (if g.cut = true then 2 else if g.bad = true then 1 else 0))))

/-- R176, R196, R203, R205 to R209, R219: a REDUCE OPEN joins its bin or opens one; it is answered MISMATCH and noted when its values
disagree or the bin is full, and BUSY when none can be opened; its last DATA flit has its elements enter the bin, and is answered OK, or
FAULTED when an error touched it. A RESP ends its transfer: BUSY has the send wait, ABANDONED cuts it off, any other status but OK faults
it, a BUSY or MISMATCH answer to a PUT with them (log 11, the model's choice); one that names no open transfer does nothing. That a REDUCE
is taken on either channel is the model's choice (log 39). Completes: receiveOpenReduce, receiveData, receiveResp. -/
def Obligations.ContributionsAndResponses : Prop :=
  ∀ (s : State) (n : Nat) (f : Flit), InOrder s n f →
    (let t := freeSlots (acked s n f) n f.vc 1
     (f.kind = 4 → payNat f 4 1 = 2 → payNat f 2 2 = s.lnk.self.toNat →
       (let rid := payNat f 16 2
        let mark := if payNat f 5 1 ≥ 128 then 32 else payNat f 5 1 % 32
        let rede := payNat f 8 8
        let exp := sext 16 (payNat f 20 2)
        let c : Contrib := { port := n, xid := f.xid, vc := f.vc, chip := payNat f 0 2, rid, mark, elems := rede, at_ := s.clk.gclk }
        let fits (b : Bin) : Prop := b.pcnt = payNat f 18 2 ∧ b.rede = rede ∧ b.accExp = exp ∧ (b.mark = none ∨ b.mark = some mark) ∧ b.count < b.pcnt
        (∀ b, binOf s rid = some b → fits b → ∃ u, exec (.receiveOpenReduce n f) s = .next u
            ∧ u = { setBin t { b with mark := some mark } with lnk.contribs := s.lnk.contribs ++ [c] })
        ∧ (∀ b, binOf s rid = some b → ¬ fits b → exec (.receiveOpenReduce n f) s
            = .next (raise (sendResp t n f.xid 4) { src := 0x19, unit := n, detail := rid + payNat f 0 2 * 2 ^ 16 }))
        ∧ (∀ v, binOf s rid = none → openBin t {
              rid, pcnt := payNat f 18 2, rede, accExp := exp, mark := some mark, accs := [], port := some n, chip := payNat f 0 2 } = some v →
            exec (.receiveOpenReduce n f) s = .next { v with lnk.contribs := v.lnk.contribs ++ [c] })
        ∧ (binOf s rid = none → s.lnk.binLimit < (s.lnk.bins.map fun b => b.slices.length).sum + (rede + 16383) / 16384 →
            exec (.receiveOpenReduce n f) s = .next (sendResp t n f.xid 3))))
     ∧ (∀ c b, f.kind = 5 → f.last = true → (∀ o ∈ (s.getP n).held, o.xid ≠ f.xid) → (acked s n f).rxAt n f.xid = none →
         s.lnk.contribs.find? (fun c => c.port == n && c.xid == f.xid) = some c → binOf s c.rid = some b → b.count < b.pcnt →
         (let bytes := c.bytes ++ f.payload
          let chunks := c.chunks ++ (List.range 15).map f.pmask.getLsbD
          let l := streamElems (if c.mark = 32 then 192 else fmtWidth c.mark) c.elems bytes chunks
          ∃ (v : State) (b' : Bin), exec (.receiveData n f) s = .next (sendResp v n f.xid (if c.faulted = true then 1 else 0))
            ∧ v.lnk.contribs = s.lnk.contribs.filter (fun x => !(x.port == n && x.xid == f.xid))
            ∧ binOf v c.rid = some b' ∧ b'.count = b.count + 1 ∧ b'.mark = some c.mark ∧ b'.idle = 0 ∧ b'.fed = true ∧ b'.faulted = (b.faulted || c.faulted)
            ∧ (∀ (i : Nat) (a : Acc), b.accs[i]? = some a → b'.accs[i]? = some (match l[i]? with | some x => enterElem b.accExp c.mark a x | none => a))
            ∧ { v with lnk.contribs := s.lnk.contribs, lnk.bins := s.lnk.bins } = t))
     ∧ (∀ g x, f.kind = 6 → t.flights.find? (fun g => g.xfers.any fun x => !x.loc && x.port == n && x.xid == f.xid && x.result.isNone && x.busyAt.isNone
           && !x.detached) = some g → x = g.xfers.map (fun x => if (!x.loc && x.port == n && x.xid == f.xid) = true then
             (if opOf g.raw = some .linkreduce ∧ payNat f 0 1 = 3 then { x with busyAt := some s.clk.gclk, busy := true } else { x with result := some (payNat f 0 1) })
             else x) →
         exec (.receiveResp n f) s = .next (flightStep (t.setF (
           if opOf g.raw = some .linkreduce ∧ payNat f 0 1 = 3 ∨ payNat f 0 1 = 0 then { g with xfers := x }
           else if payNat f 0 1 = 2 then { g with xfers := x, cut := true } else { g with xfers := x, bad := true })) g.id))
     ∧ (f.kind = 6 → (∀ g ∈ t.flights, ∀ x ∈ g.xfers, x.port ≠ n ∨ x.xid ≠ f.xid) → exec (.receiveResp n f) s = .next t))

/-- R218, Table 6.10: a channel that has had flits waiting and no credit for LNK_TIMEOUT while the peer is heard records a credit stall
(source 0xA), and on VC0 and VC2 abandons the transfers that wait; a transfer without its RESP for LNK_TIMEOUT after its last flit was acked
records a remote timeout (0xB), sub 0, and is abandoned, an MCAST's once all of its data has been given to its flits (R199); a receive
stream without DATA for as long records sub 1 and ends, and so does a contribution. LNK_TIMEOUT counts as it stood when the GCLK began.
Dropping the RESP and CANCEL flits that wait at a VC1 or VC3 stall, and abandoning without a CANCEL, is the model's choice (log 11).
Completes: creditStall, remoteTimeout. -/
def Claims.LinkTimeouts : Prop :=
  ∀ (s : State) (n : Nat), s.runs = true →
    (let p := s.getP n
     let t := 700 * s.start.lnk.timeout.toNat
     let g := s.clk.gclk
     (∀ vc a, p.state = .up → g < p.goodAt + t → vc < 4 → p.stall.getD vc none = some a → a + t ≤ g →
       (let ev : List Ev := [{ src := 0xA, sub := vc, unit := n, detail := p.peerId }]
        ((vc = 0 ∨ vc = 2) →
          exec (.creditStall n vc) s = .next (recordCuts (((p.waiting vc).map (·.xid)).eraseDups.foldl (fun s x => abandonXfer s n x) s) ev))
        ∧ (vc = 1 → exec (.creditStall n vc) s = .next (recordCuts (s.modP n fun p => { p with tx1 := [] }.restall g) ev))
        ∧ (vc = 3 → exec (.creditStall n vc) s = .next (recordCuts (s.modP n fun p => { p with tx3 := [] }.restall g) ev))))
     ∧ (∀ vc, p.stall.getD vc none = none → exec (.creditStall n vc) s = .next s)
     ∧ (∀ xid f x, f ∈ s.flights → x ∈ f.xfers → x.loc = false → x.port = n → x.xid = xid → x.result = none → x.busyAt = none → x.lastAt + t ≤ g →
         (∀ z ∈ p.tx0 ++ p.tx2 ++ p.replay, (z.kind = 4 ∨ z.kind = 5) → z.xid ≠ xid) →
         (∀ h ∈ s.flights, (∃ y ∈ h.xfers, y.port = n ∧ y.xid = xid) → mcFed h = true) →
         exec (.remoteTimeout n xid false) s = .next (recordCuts (abandonXfer s n xid) [{ src := 0xB, unit := n, detail := p.peerId + xid * 2 ^ 16 }]))
     ∧ (∀ xid, (∀ h ∈ s.flights, (∃ y ∈ h.xfers, y.port = n ∧ y.xid = xid) → mcFed h = false) → exec (.remoteTimeout n xid false) s = .next s)
     ∧ (∀ h : Flight, mcFed h = true ↔ h.rx.isSome = true ∨ opOf h.raw ≠ some .mcast ∨ (eSrc h.raw).total ≤ h.seq)
     ∧ (∀ xid f r, s.rxAt n xid = some f → f.rx = some r → r.lastSeen = false → r.ended = false → r.at_ + t ≤ g →
         exec (.remoteTimeout n xid true) s = .next ((raise s { src := 0xB, sub := 1, unit := n, detail := p.peerId + xid * 2 ^ 16 }).setF
           { f with rx := some { r with ended := true }, wtodo := [] }))
     ∧ (∀ xid c, s.rxAt n xid = none → s.lnk.contribs.find? (fun c => c.port == n && c.xid == xid) = some c → c.at_ + t ≤ g →
         exec (.remoteTimeout n xid true) s = .next (cutContrib s c [{ src := 0xB, sub := 1, unit := n, detail := p.peerId + xid * 2 ^ 16 }]))
     ∧ (∀ xid, (∀ z ∈ (abandonXfer s n xid).getP n |>.tx0, z.xid ≠ xid) ∧ ∀ z ∈ (abandonXfer s n xid).getP n |>.tx2, z.xid ≠ xid))

/-- Bad flits, NAKs and lost peers (R184, R185, R216, R217), credit stalls and remote timeouts (R218). -/
def Obligations.LossesAndTimeouts : Prop := Claims.BadFlitsAndPeerLoss ∧ Claims.LinkTimeouts

/-! ### Arbitration (07) -/

/-- R261, R265: a round of an arbiter grants every eligible input that holds, and of the others that request and wait on no lock the ones
with the greatest effective class, of equal ones the greater number, up to its k grants. A granted input's loss count becomes 0, and
it holds in HOLD mode; one that was passed over loses, up to 15; one that holds, or waits on a lock, is as before; one that does not
request has neither loss nor hold. -/
def Claims.Rounds : Prop :=
  ∀ (hold : Bool) (k : Nat) (a : Arb) (rs : List ArbReq), (rs.map (·.i)).Nodup →
    (let won := (arbRound hold k a rs).1
     let b := (arbRound hold k a rs).2
     let at_ (r : ArbReq) : ArbIn := a.getD {} r.i
     let eff (r : ArbReq) : Nat := min (r.base + (at_ r).loss) 15 + (if r.rt = true then 16 else 0)
     let free (r : ArbReq) : Prop := r ∈ rs ∧ r.eligible = true ∧ (at_ r).hold = false
     let room := k - (rs.filter fun r => (at_ r).hold).length
     (∀ i ∈ won, ∃ r ∈ rs, r.i = i ∧ r.eligible = true)
     ∧ (∀ r ∈ rs, r.eligible = true → (at_ r).hold = true → r.i ∈ won)
     ∧ ((won.filter fun i => !(a.getD {} i).hold).length = min room (rs.filter fun r => r.eligible && !(at_ r).hold).length)
     ∧ (∀ r z, free r → free z → r.i ∈ won → z.i ∉ won → eff z < eff r ∨ (eff z = eff r ∧ z.i < r.i))
     ∧ (∀ r, free r → b.getD {} r.i = (if r.i ∈ won then { loss := 0, hold } else { at_ r with loss := min ((at_ r).loss + 1) 15 }))
     ∧ (∀ r ∈ rs, (r.eligible = false ∨ (at_ r).hold = true) → b.getD {} r.i = at_ r)
     ∧ (∀ i, (∀ r ∈ rs, r.i ≠ i) → b.getD {} i = {}))

/-- R262, R263, R266, R273: a stream's requests compete with the larger of its queue's class and its entry's, a receive stream's with its
port's, as these registers stood at the start of the GCLK, and with rt = 1 exactly when its queue is real-time and within budget. A part
asks for nothing while its bay is masked or asleep, its owner is masked, or the engine is in the safe state; what something else holds back
has not asked (log 37, the model's reading). No round of a bay takes place while an emergency requester, the granger or the debug access
path, has its arbiter, nor one of a stack port while the debug access path has (R264; the length of that hold is the model's, log 35). -/
def Claims.StreamClasses : Prop :=
  ∀ (s : State) (f : Flight) (i : Nat) (e : Bool),
    (f.rx = none → f.base s = max (s.atStart.getQ f.q).cls (fld f.raw 120 48 3) ∧ f.rt s = rtIn (s.getQ f.q))
    ∧ (∀ r, f.rx = some r → f.base s = (s.atStart.getP r.port).rxClass ∧ f.rt s = false)
    ∧ f.input s i e = { i, base := f.base s, rt := f.rt s, eligible := e }
    ∧ ((s.eng.state = .safe ∨ bayAwake (s.getB (f.bayOf i)) = false ∨ (f.rx = none ∧ coreMasked s (s.getQ f.q).owner = true)) →
        readAsk s f i = none ∧ writeAsk s f i = none)
    ∧ (∀ b, ((s.getB b).emerg = true ∨ s.dbg.busy = true) → issueRounds s b = s)
    ∧ (s.dbg.busy = true → issuePass s = s)

/-- R230 to R232, R244, R245, R247, R267, R268: a read that a bay's issue arbiter grants leaves for the mesh port under the bay's least free
tracker entry; its granule is locked if it is a locked read, its part asks for it no more, and the bay's map cache holds the entries it
held. A locked read waits while another sequence holds its granule, while its serving port has 64 locks, or while the write
of an earlier sequence there is unanswered (log 36). -/
def Claims.ReadsLeave : Prop :=
  ∀ (s : State) (f : Flight) (i : Nat) (x : Read) (r : RdReq), s.flightOf f.id = some f → readAsk s f i = some (x, some r) → decodePa s x.pa = none →
    (r ∈ f.todo ∧ r.part = i ∧ x.tag < 2048 ∧ x.tag ∉ trkHeld s (f.bayOf i) ∧ (∀ n, n < x.tag → n ∈ trkHeld s (f.bayOf i))
      ∧ (x.bay, x.flight, x.wait, x.beats, x.off) = (f.bayOf i, f.id, false, [], 0)
      ∧ (∃ ps, portPieces s (f.bayOf i) r.va r.len = some ({ va := x.req.va, len := x.req.len, pa := x.pa } :: ps) ∧ x.rest = ps)
      ∧ partReads s f i < creditOf s (f.bayOf i))
    ∧ (let busy (l : Lock) : Prop := l.granule ∈ granulesOf x.pa x.req.len
       (∃ l ∈ s.locks, l.flight ≠ f.id ∧ busy l) → readGrant s f.id i = s)
    ∧ (lockedOut s f.id x.pa x.req.len = false → (r.lock = true → lockRoom s x.bay [x.pa / 256] = true ∧ orderHeld s x.pa x.req.len = false) →
        (let u := readGrant s f.id i
         u.reads = s.reads ++ [x]
         ∧ u.locks = (if r.lock = true then s.locks ++ [{ bay := x.bay, flight := f.id, part := x.req.part, granule := x.pa / 256
                                                          va := x.req.va / 256 }] else s.locks)
         ∧ u.flightOf f.id = some { f with todo := f.todo.erase r }
         ∧ (u.getB x.bay).rdCnt = (s.getB x.bay).rdCnt + 1
         ∧ (∀ e, e ∈ (u.getB x.bay).mapc ↔ e ∈ (s.getB x.bay).mapc)
         ∧ (∀ b, b ≠ x.bay → u.getB b = s.getB b)
         ∧ { u with reads := s.reads, locks := s.locks, flights := s.flights, bay := s.bay } = s))

/-- The arbiters, and what they let out (R230 to R232, R244, R245, R247, R261 to R268, R273). Which locks shut a granule is the
model's reading (log 36). -/
def Obligations.ArbiterRounds : Prop := Claims.Rounds ∧ Claims.StreamClasses ∧ Claims.ReadsLeave

/-! ### The block as a whole -/

/-- The queue of commands is first in, first out: a step takes the command at its front and runs it with the rest of the queue. -/
def Obligations.StepRunsFrontCommand : Prop :=
  ∀ (s : State) (c : Instr) (rest : List Instr), s.pending = c :: rest → step s = exec c { s with pending := rest }

/-- Log 2, log 3 (the model's choice): when no command waits, one GCLK ends. The control-space writes that wait are applied first (csPass),
then what the GCLK has brought: deadline misses, rounds, stalls, the tallies' arrivals, the fault unit's events and register writes (`v`).
The clock advances, and what the block notes for one GCLK is over; every RC counter ends it saturated (R20); a control-space read of the
next GCLK sees what this one left (R455); the emergency requesters release the arbiters, the granger a GCLK later when the debug access path
has held them (log 35); real-time queues consume what their parts hold (R272); a source that an EOI has ended is inactive, and a
level-sensed one whose input is 1 and which is not active is pending (R368 to R370); an offer that no longer holds is dropped (R372), and
the distributor's clock runs while a source is pending or an offer stands (R376); a port whose PHY falls loses phy_up (R167), a bay that is
masked its place at a port's arbiter (R266), and a port whose conditions hold leaves DOWN (R180). Of a frozen block nothing changes. -/
def Obligations.EmptyQueueIsOneCycle : Prop :=
  ∀ (s : State), s.pending = [] →
    (s.eng.state = .frozen → step s = .next s)
    ∧ (s.eng.state ≠ .frozen → ∃ u, step s = .next u
        ∧ (let t := csPass s
           let v := fltPass (talPass (mcStallPass (releasePass (issuePass (deadlinePass t)))))
           let src (z : Src) : Src := { z with
             eoi := false, sensed := false, active := z.active && !z.eoi, fresh := z.active && z.eoi
             pending := z.pending || (z.cfg.getLsbD 31 && !z.cfg.getLsbD 30 && !z.cfg.getLsbD 29 && z.input && !(z.active && !z.eoi)) }
           (s.cs.wait = [] → s.cs.late = [] → { t with cs := s.cs } = s)
           ∧ u.pending = [] ∧ u.start = u.toCore
           ∧ u.clk = { gclk := t.clk.gclk + 1, writes := [], seen := [], ports := [] }
           ∧ u.tal = { v.tal with todo := [], stray := min v.tal.stray (2 ^ 32 - 1) }
           ∧ { u.flt with evs := v.flt.evs } = { v.flt with
               writes := [], hits := [], recover := false, recovCnt := min v.flt.recovCnt (2 ^ 32 - 1)
               testMode := match t.dbg.factory.find? (fun x => x.1 == t.clk.gclk) with | some x => x.2 | none => v.flt.testMode }
           ∧ { u.eng with imgAt := v.eng.imgAt } = { v.eng with collide := min v.eng.collide (2 ^ 32 - 1) }
           ∧ (u.cfg, u.tick, u.masks, u.cs, u.falls) = (v.cfg, v.tick, v.masks, v.cs, v.falls)
           ∧ u.hst = v.hst.map (fun x => (x.1, { x.2 with errCnt := min x.2.errCnt (2 ^ 16 - 1) }))
           ∧ u.dbg = { t.dbg with busy := false, dapCnt := min t.dbg.dapCnt (2 ^ 16 - 1) }
           ∧ u.gran = { v.gran with hitCnt := min v.gran.hitCnt (2 ^ 64 - 1), missCnt := min v.gran.missCnt (2 ^ 64 - 1) }
           ∧ u.crib.dropCnt = min v.crib.dropCnt (2 ^ 32 - 1)
           ∧ (∀ b, (u.getB b).emerg = ((t.getB b).emerg && t.dbg.busy)
               ∧ { u.getB b with waking := (v.getB b).waking, wakeCnt := (v.getB b).wakeCnt } = { v.getB b with
                   rdCnt := min (v.getB b).rdCnt (2 ^ 64 - 1), wrCnt := min (v.getB b).wrCnt (2 ^ 64 - 1), missCnt := min (v.getB b).missCnt (2 ^ 32 - 1) })
           ∧ (∀ q, (let y : Queue := { v.getQ q with
                      rtUsed := if (v.getQ q).rtBudget = 0 then (v.getQ q).rtUsed else (v.getQ q).rtUsed + ctxHeld v q
                      elemNow := 0, clipNow := 0, refusedCnt := min (v.getQ q).refusedCnt 255 }
                    let z := u.getQ q
                    (z.rtUsed, z.elemNow, z.clipNow, z.refusedCnt, z.h, z.p, z.headAddr, z.elemCnt, z.clipCnt)
                      = (y.rtUsed, y.elemNow, y.clipNow, y.refusedCnt, y.h, y.p, y.headAddr, y.elemCnt, y.clipCnt)
                    ∧ ((∀ x ∈ y.win, x.st ≠ .checking) → { z with strikePend := y.strikePend, idxRead := y.idxRead } = y)))
           ∧ (v.sig.clockOn = true →
               (∀ n, u.getS n = src (v.getS n))
               ∧ (u.sig.clockOn = true ↔ (∃ n x, (n, x) ∈ u.sig.src ∧ x.pending = true) ∨ ∃ k o, (k, some o) ∈ u.sig.offer)
               ∧ (∀ c n, u.sig.offer.getD none c = some n ↔ v.sig.offer.getD none c = some n ∧ offerable u c n = true))
           ∧ ((∀ n x, (n, x) ∈ v.sig.src → (src x).pending = false) → (∀ k o, (k, some o) ∉ v.sig.offer) →
               u.sig.clockOn = false ∧ ∀ n, u.getS n = src (v.getS n))
           ∧ (∀ b ∈ u.lnk.bins, b.fed = false)
           ∧ (∀ n, (let p : Port := { v.getP n with
                      phyUp := (v.getP n).phyUp && !v.falls.contains (t.clk.gclk + 1, n)
                      crcCnt := min (v.getP n).crcCnt (2 ^ 32 - 1), replayCnt := min (v.getP n).replayCnt (2 ^ 32 - 1)
                      arb := (v.getP n).arb.filter fun x => bayAwake (v.getB x.1) }
                u.getP n = if p.state = .down ∧ p.enable = true ∧ p.phyUp = true ∧ v.lnk.self ≠ 0xFFFF#16 ∧ v.eng.state ≠ .test
                  then toHello (t.clk.gclk + 1) p else p))))

/-- The reset values of Tables 14.3 to 14.10, in every configuration that R37 admits: the registers of the engine, ENG_CFG as the
configuration has it, the admin queue, the fault unit, FLT_SRC_CFG of every source as in Table 11.2 and zero for a reserved one, the
distributor, the host channels, the links, the bays, the granary and the debug path, and of every tally, queue and source; both memories
read zero everywhere; nothing is in flight and no command waits. -/
def Obligations.ResetLeavesRegisterValues : Prop :=
  ∀ (c : Config), c.valid = true →
    (let s := State.resetOf c
     let reads (off v : Nat) : Prop := (regAt s off).map (·.val) = some v
     (∀ x ∈ [(0x0, 0xB7040100), (0x8, 0), (0xC, 0), (0x10, 0), (0x18, 0x11170), (0x1C, 0x28), (0x20, 0), (0x28, 0), (0x2C, 0), (0x30, 0),
             (0x38, 0), (0xF0, 0), (0xF4, 0x3E8), (0x200, 0), (0x208, 0), (0x20C, 0), (0x210, 0), (0x218, 0), (0x220, 4),
             (0x10000, 0), (0x10004, 0), (0x10008, 0), (0x1000C, 0x3E8), (0x10010, 0), (0x10014, 0),
             (0x20000, 0), (0x20004, 0), (0x20008, 0), (0x2F0000, 0), (0x400004, 1), (0x9F0000, 0xFFFF), (0x9F0004, 0xC8),
             (0x9F0008, 0x32), (0x9F000C, 0x640060), (0xCC0000, 0), (0xE00000, 0), (0xE00008, 0), (0xE00010, 0), (0xE00020, 0),
             (0xE00028, 0), (0xE00030, 12), (0xF00000, 0)], reads x.1 x.2)
     ∧ reads 0x4 (c.bays + 2 ^ 8 * c.linkPorts + 2 ^ 16 * c.stackPorts + 2 ^ 20 * (c.wakeWires / 64)
         + (if c.grantHold then 0 else 2 ^ 30) + if c.hostSignal then 2 ^ 31 else 0)
     ∧ (∀ n, n < 64 → reads (0x10100 + 4 * n) (if n = 0 ∨ 0x1B < n then 0 else
           ([0x641005, 0x641005, 0x644005, 0x3E80405, 0x3E8FF04, 0x642005, 0x5, 0x641005, 0x641005, 0x640405, 0x641005, 0x5, 0x5, 0x6,
                      0x6, 0x6, 0x7, 0x4, 0x4, 0x4, 0x4, 0x4, 0xA4004, 0x4, 0x4, 0x4, 0x4] : List Nat).getD (n - 1) 0))
     ∧ (∀ t, t < 16384 → (∀ o ∈ [0x0, 0x8, 0xC, 0x10, 0x14, 0x18, 0x1C], reads (0x200000 + 32 * t + o) 0)
          ∧ ∀ o ∈ [0x0, 0x4, 0x8, 0xC], reads (0x280000 + 16 * t + o) 0)
     ∧ (∀ q, 0 < q → q < 65536 → ∀ o ∈ [0x0, 0x4, 0x8, 0xC, 0x10, 0x14, 0x18, 0x1C, 0x20, 0x28, 0x30, 0x38], reads (0x400000 + 64 * q + o) 0)
     ∧ (∀ n, n < 33280 → reads (0x100000 + 16 * n) (if n < 512 then 0 else (n - 512) / 16)
          ∧ reads (0x100004 + 16 * n) 0 ∧ reads (0x100008 + 16 * n) 0)
     ∧ (∀ n, n < c.linkPorts → reads (0x800000 + 0x1000 * n) 0 ∧ reads (0x800004 + 0x1000 * n) 0x40
          ∧ ∀ o ∈ [0x8, 0x10, 0x14, 0x18], reads (0x800000 + 0x1000 * n + o) 0)
     ∧ (∀ b, b < c.bays → ∀ o ∈ [0x0, 0x8, 0x10, 0x14, 0x18], reads (0xA00000 + 0x1000 * b + o) 0)
     ∧ (c.hostSignal = true → ∀ n, n < 64 → ∀ o ∈ [0x0, 0x4, 0x8, 0x10, 0x14], reads (0x28000 + 32 * n + o) 0)
     ∧ (∀ n, n < 12 → reads (0x40 + 4 * n) 0)
     ∧ (∀ n, n < 32 → ∀ j, j < 4 → reads (0x10800 + 32 * n + 8 * j) 0)
     ∧ (∀ n, n < 1024 → reads (0xC80000 + 4 * n) 0)
     ∧ (∀ a, s.crib.mem.read a = 0#8 ∧ s.eng.gmem.read a = 0#8)
     ∧ s.flights = [] ∧ s.reads = [] ∧ s.writes = [] ∧ s.locks = [] ∧ s.owed = [] ∧ s.fe = [] ∧ s.pending = []
     ∧ s.start = s.toCore)

/-- Every command answers a next state in every state, never a fault or a refusal: one that the state does not call for changes nothing
(log 4, the model's choice). No command changes the configuration (R400) or the commands that wait. -/
def Obligations.EveryCommandAnswersNextState : Prop :=
  ∀ (c : Instr) (s : State), ∃ u, exec c s = .next u ∧ u.cfg = s.cfg ∧ u.pending = s.pending

/-- R427, R450, R451: of a frozen block, only the resets, the debug access path and the TAP reset change anything. -/
def Obligations.FrozenBlockIgnoresCommands : Prop :=
  ∀ (c : Instr) (s : State), s.eng.state = .frozen →
    (match c with
     | .coldReset | .warmReset | .tapControllerReset | .debugRead _ _ | .debugWrite _ _ _ | .debugReadAdvance _ _ => True
     | _ => exec c s = .next s)

/-- R431, Table 13.2: the engine's state changes in no other way than from any state to COLD by a reset and to FROZEN by freeze; from
COLD, or a stopped LOAD or TEST, to LOAD by a control-space write; from LOAD to TEST or, with skip_test, SERVICE by the digest check;
from TEST to SERVICE by the self-test's pass; from SERVICE to SAFE, with a class D fault recorded; and, at the end of a GCLK, from SAFE to
SERVICE by a recovery of that GCLK, and to LOAD by a write that waited for its grant. -/
def Obligations.EngineStateTransitions : Prop :=
  (∀ (c : Instr) (s u : State), exec c s = .next u → u.eng.state ≠ s.eng.state →
    ((c = .coldReset ∨ c = .warmReset) ∧ u.eng.state = .cold)
    ∨ (c = .freeze ∧ u.eng.state = .frozen)
    ∨ ((s.eng.state = .cold ∨ ((s.eng.state = .load ∨ s.eng.state = .test) ∧ s.eng.cause ≠ 0)) ∧ u.eng.state = .load
        ∧ (match c with
           | .fwLoad _ _ | .fwReuse _ | .registerWrite _ _ _ _ | .halfWrite64 _ _ _ | .debugWrite _ _ _ => True
           | _ => False))
    ∨ (c = .fwDigestCheck ∧ s.eng.state = .load ∧ s.eng.cause = 0 ∧ u.eng.state = (if s.eng.skipTest then .service else .test))
    ∨ (c = .selfTestPass ∧ s.eng.state = .test ∧ s.eng.cause = 0 ∧ u.eng.state = .service)
    ∨ (c = .safeStateEntry ∧ s.eng.state = .service ∧ s.flt.safeDue = true ∧ u.eng.state = .safe))
  ∧ (∀ (s u : State), s.pending = [] → step s = .next u → u.eng.state ≠ s.eng.state →
    ((s.eng.state = .cold ∨ ((s.eng.state = .load ∨ s.eng.state = .test) ∧ s.eng.cause ≠ 0)) ∧ u.eng.state = .load
      ∧ ∃ c ∈ s.cs.wait ++ s.cs.late, match c with
          | .fwLoad _ _ | .fwReuse _ | .registerWrite _ _ _ _ | .halfWrite64 _ _ _ | .debugWrite _ _ _ => True
          | _ => False)
    ∨ (s.eng.state = .safe ∧ s.flt.recover = true ∧ u.eng.state = .service))

/-- A command that moves data, answers a request, carries program control or serves a link leaves the clocks and ticks, the admin queue,
the crib and the granger's memory, the debug path, the control-space ports, the masks, the engine's state and the settings of the other
units as they were; a push is a control-space access too, which has its grant and its response. -/
def Obligations.DataCommandsFrame : Prop :=
  ∀ (c : Instr) (s u : State), exec c s = .next u →
    (match c with
     | .move _ _ | .fill _ _ | .cast _ _ | .pack _ _ | .unpack _ _ | .gather _ _ | .scatter _ _ | .scatterAdd _ _ | .contract _ _
     | .linkput _ _ | .linkreduceSend _ _ | .linkreduceHome _ _ | .mcast _ _ | .fenceFull _ | .fenceReads _ | .fenceReadsRetire _ _
     | .fenceNone _ | .signal _ | .await _ | .tickwaitRelative _ | .tickwaitAligned _ | .link _ | .nop _ | .entryFetch _ _
     | .entryFetchReturn _ _ _ | .partDispatch _ | .winnowRecordWrite _ _ | .completionArrival _ _
     | .progressArrival _ _ | .readResponse _ _ _ | .writeResponse _ _ _ | .fillBeat _ _ _ _ | .translationRequest _ _
     | .translationCompletion _ _ _ _ _ _ _ | .transmitFlit _ | .receiveHello _ _ | .receiveIdle _ _ | .receiveNak _ _
     | .receiveBadFlit _ _ _ | .receiveOpenPut _ _ | .receiveOpenReduce _ _ | .receiveData _ _ | .receiveResp _ _ | .receiveCancel _ _
     | .receiveStreamComplete _ _ | .peerLost _ | .creditStall _ _ | .remoteTimeout _ _ _ | .multicastDetach _ _ _ | .busyRetry _ _
     | .reduceBinUnavailable _ _ | .reduceBinIdleAbandon _ | .binResultWrite _ => u.still = s.still
     | .push _ _ _ _ => u.still = { s.still with cs := u.cs, clk := { s.clk with writes := u.clk.writes, ports := u.clk.ports } }
     | _ => True)

/-- The crib and the granger's memory are held in one canonical form: addresses rising, no byte equal to what an unlisted address reads
as. Every step keeps it. -/
def Obligations.StepKeepsMemoriesCanonical : Prop :=
  ∀ (s u : State), s.crib.mem.wf = true → s.eng.gmem.wf = true → step s = .next u → u.crib.mem.wf = true ∧ u.eng.gmem.wf = true

/-- R353: a bound tally's count is below its target. Every step keeps it. -/
def Obligations.StepKeepsTallyCounts : Prop :=
  ∀ (s u : State), (∀ t, (s.getT t).target ≠ 0 → (s.getT t).count < (s.getT t).target) → step s = .next u →
    ∀ t, (u.getT t).target ≠ 0 → (u.getT t).count < (u.getT t).target

/-- The instructions in flight have numbers of their own, below the next one given. Every step keeps it. -/
def Obligations.StepKeepsFlightNumbers : Prop :=
  ∀ (s u : State), (s.flights.map (·.id)).Nodup → (∀ f ∈ s.flights, f.id < s.nextId) → step s = .next u →
    (u.flights.map (·.id)).Nodup ∧ ∀ f ∈ u.flights, f.id < u.nextId

/-- The invariants that every step keeps hold right after reset. -/
def Obligations.ResetMeetsInvariants : Prop :=
  State.reset.crib.mem.wf = true ∧ State.reset.eng.gmem.wf = true
  ∧ (∀ t, (State.reset.getT t).target ≠ 0 → (State.reset.getT t).count < (State.reset.getT t).target)
  ∧ (State.reset.flights.map (·.id)).Nodup ∧ (∀ f ∈ State.reset.flights, f.id < State.reset.nextId)

/-! ### Flits, shapes and formats -/

/-- R168 to R172, Tables 6.3 and 6.5: a flit within its fields' widths is read back whole from its 256 bytes, with every field at every
value; a PUT OPEN's payload gives back the shape, the walk order, the format, the element total and the tally it was written from. -/
def Obligations.FlitsReadBack : Prop :=
  (∀ (f : Flit), f.wf = true → (flitBytes f).length = 256 ∧ parseFlit (flitBytes f) = some f)
  ∧ (∀ (f : Flit) (src dst fmt elems wo : Nat) (rt : Option Nat) (d : Shape),
      f.payload = padPayload (putOpen src dst fmt rt elems d wo) →
      src < 65536 → dst < 65536 → fmt < 256 → elems < 2 ^ 64 → wo < 256 → (∀ t, rt = some t → t < 16384) →
      d.base < 2 ^ 64 → d.run < 2 ^ 32 → d.cnt1 < 2 ^ 32 → d.cnt2 < 2 ^ 32 → d.cnt3 < 2 ^ 32 →
      (∀ x ∈ [d.step1, d.step2, d.step3], -(2 ^ 63) ≤ x ∧ x < 2 ^ 63) →
      payNat f 0 2 = src ∧ payNat f 2 2 = dst ∧ payNat f 4 1 = 1 ∧ payNat f 5 1 = fmt ∧ payNat f 8 8 = elems ∧ payNat f 64 1 = wo
      ∧ openRtally f = rt
      ∧ openShape f = { base := d.base, run := d.run, cnt1 := d.cnt1, cnt2 := d.cnt2, cnt3 := d.cnt3
                        step1 := d.step1, step2 := d.step2, step3 := d.step3 })

/-- R47, R48, R55, R56, R59, R60, R66: element n of a source's stream is the element of the walk indices that n spells, innermost first:
pad_value in a pad region, else the bits at the bit address of R47. The rows of a merged run lie next to each other. The writes of a
destination carry, in order, its rows' bytes; unmerged, each row at its own address. A row's bytes hold element i at bit w × i and
zeros past the last. A corner turn gives position (i0, i1) of a plane the source element (i1, i0). -/
def Obligations.ShapeWalk : Prop :=
  (∀ (s : Shape) (w pad : Nat) (land : List Landed) (grp : Nat → Nat) (e i1 i2 i3 : Nat),
    e < s.run → i1 < s.cnt1 → i2 < s.cnt2 → i3 < s.cnt3 →
    (let r := (i3 * s.cnt2 + i2) * s.cnt1 + i1
     let k0 : Int := s.start0 + e
     let k1 : Int := s.start1 + i1
     let k2 : Int := s.start2 + i2
     let k3 : Int := s.start3 + i3
     let out (k : Int) (ext : Nat) : Prop := ext ≠ 0 ∧ (k < 0 ∨ (ext : Int) ≤ k)
     ((out k0 s.ext0 ∨ out k1 s.ext1 ∨ out k2 s.ext2 ∨ out k3 s.ext3) →
       streamElem s w pad land grp (r * s.run + e) = { code := pad % 2 ^ w, pad := true })
     ∧ (¬ (out k0 s.ext0 ∨ out k1 s.ext1 ∨ out k2 s.ext2 ∨ out k3 s.ext3) →
       streamElem s w pad land grp (r * s.run + e)
         = (let v := landedBits land .source (grp r) (8 * (s.base + k1 * s.step1 + k2 * s.step2 + k3 * s.step3) + w * k0).toNat w
            { code := v.1, psn := v.2 }))))
  ∧ (∀ (d : Shape) (wo w k j : Nat) (ct : Bool), j < destMerge d wo w ct → destMerge d wo w ct * k + j < d.rows →
      destRowAddr d wo (destMerge d wo w ct * k + j) = destRowAddr d wo (destMerge d wo w ct * k) + j * (w * d.run / 8 : Nat))
  ∧ (∀ (d : Shape) (wo w : Nat) (ct : Bool) (es : List Elem),
      (destWrites d wo w ct es).flatMap (·.data) = (chunk d.run d.rows es).flatMap fun r => (rowBytes w r).map Prod.fst)
  ∧ (∀ (d : Shape) (wo w : Nat) (ct : Bool) (es : List Elem), destMerge d wo w ct = 1 →
      destWrites d wo w ct es
        = (chunk d.run d.rows es).zipIdx.flatMap fun (x, r) => runWrites .dest w (destRowAddr d wo r).toNat (r * d.run) (rowBytes w x))
  ∧ (∀ (w i : Nat) (es : List Elem) (x : Elem), 0 < w → es[i]? = some x →
      bits (leNat ((rowBytes w es).map Prod.fst)) (w * i) w = x.code % 2 ^ w
      ∧ (rowBytes w es).length = (w * es.length + 7) / 8 ∧ leNat ((rowBytes w es).map Prod.fst) < 2 ^ (w * es.length))
  ∧ (∀ (s d : Shape) (p i0 i1 : Nat), i0 < d.run → i1 < d.cnt1 →
      turnIdx s d (p * (d.run * d.cnt1) + i1 * d.run + i0) = p * (d.run * d.cnt1) + i0 * s.run + i1)

/-- R76 to R81, R84: rounding to nearest takes the nearest integer, the even one of two; toward zero takes the floor of the magnitude;
stochastic rounding takes one of the two neighbours, and an integer always itself. The finite value of a code of a castable format
converts to that format as that code, whatever the rounding, with no event. -/
def Obligations.Rounding : Prop :=
  (∀ (m : Round) (n d : Nat), 0 < d →
    (m.rnd = 0 → 2 * (roundQ m n d * d) ≤ 2 * n + d ∧ 2 * n ≤ 2 * (roundQ m n d * d) + d
      ∧ (2 * (roundQ m n d * d) = 2 * n + d ∨ 2 * n = 2 * (roundQ m n d * d) + d → roundQ m n d % 2 = 0))
    ∧ (m.rnd = 1 → roundQ m n d * d ≤ n ∧ n < (roundQ m n d + 1) * d)
    ∧ (2 ≤ m.rnd → (roundQ m n d = n / d ∨ roundQ m n d = n / d + 1) ∧ (m.r < 2 ^ 32 → n % d = 0 → roundQ m n d = n / d)))
  ∧ (∀ (t code n : Nat) (neg : Bool) (e : Int) (m : Round), fmtCastable t = true → code < 2 ^ fmtWidth t → m.r < 2 ^ 32 →
      valueOf t code = .fin neg n e → convert t m (valueOf t code) = { code := code })
end

