-- ==== Sys2Proof/Laws/Bytes.lean ====
section
/-!
SUPPORT. Laws/Bytes.lean: numbers and their little-endian bytes, and slices of bytes.
-/
namespace Sys2Proof.Machine

@[simp] theorem leBytes_length (v n : Nat) : (leBytes v n).length = n := by
  induction n generalizing v with
  | zero => rfl
  | succ n ih => simp [leBytes, ih]

/-- The bytes of a number spell it back, modulo what they hold (R5). -/
theorem leNat_leBytes (v n : Nat) : leNat (leBytes v n) = v % 256 ^ n := by
  induction n generalizing v with
  | zero => simp [leBytes, leNat, Nat.mod_one]
  | succ n ih =>
    simp only [leBytes, leNat, ih, BitVec.toNat_ofNat, Nat.shiftRight_eq_div_pow]
    rw [show (256 : Nat) ^ (n + 1) = 256 * 256 ^ n by rw [Nat.pow_succ, Nat.mul_comm], Nat.mod_mul]

/-- A number that n bytes hold is spelled back whole. -/
theorem leNat_leBytes_of_lt {v n : Nat} (h : v < 256 ^ n) : leNat (leBytes v n) = v := by
  rw [leNat_leBytes, Nat.mod_eq_of_lt h]

/-- Bytes spell a number below 256 to their count. -/
theorem leNat_lt (l : List Byte) : leNat l < 256 ^ l.length := by
  induction l with
  | nil => simp [leNat]
  | cons b r ih =>
    have hb := b.isLt
    simp only [leNat, List.length_cons, Nat.pow_succ]
    omega

theorem leNat_append (a b : List Byte) : leNat (a ++ b) = leNat a + 256 ^ a.length * leNat b := by
  induction a with
  | nil => simp [leNat]
  | cons x r ih =>
    simp only [List.cons_append, leNat, ih, List.length_cons, Nat.pow_succ, Nat.mul_add, Nat.add_assoc]
    rw [← Nat.mul_assoc, Nat.mul_comm 256 (256 ^ r.length)]

@[simp] theorem sliceBytes_length (l : List Byte) (i n : Nat) : (sliceBytes l i n).length = n := by simp [sliceBytes]

/-- A slice that lies within the list is what stands there. -/
theorem sliceBytes_eq (l : List Byte) (i n : Nat) (h : i + n ≤ l.length) : sliceBytes l i n = (l.drop i).take n := by
  apply List.ext_getElem
  · simp; omega
  · intro j h1 h2
    simp only [sliceBytes_length] at h1
    simp [sliceBytes, List.getD_eq_getElem?_getD, List.getElem?_drop, List.getElem?_eq_getElem (show i + j < l.length by omega)]

/-- A field of a number that n bits hold. -/
theorem bits_lt (v lo n : Nat) : bits v lo n < 2 ^ n := Nat.mod_lt _ (Nat.two_pow_pos n)

end Sys2Proof.Machine
end

