-- ==== Sys2Proof/Laws/State.lean ====
section
/-!
SUPPORT. Laws/State.lean: what each update of the state's arrays leaves, field by field, and reading an entry after it.
-/
namespace Sys2Proof.Machine

/-! ### The sparse tables -/

@[simp] theorem getD_put_self {α : Type} (t : Tbl α) (d v : α) (k : Nat) : Tbl.getD (Tbl.put t k v) d k = v := by
  induction t with
  | nil => simp [Tbl.put, Tbl.getD]
  | cons a r ih =>
    obtain ⟨a, w⟩ := a
    unfold Tbl.put
    split
    · simp [Tbl.getD]
    · split
      · simp [Tbl.getD]
      · simp [Tbl.getD, *]

theorem getD_put_ne {α : Type} (t : Tbl α) (d v : α) (k j : Nat) (h : j ≠ k) : Tbl.getD (Tbl.put t k v) d j = Tbl.getD t d j := by
  induction t with
  | nil => simp [Tbl.put, Tbl.getD]; intro e; exact absurd e.symm h
  | cons a r ih =>
    obtain ⟨a, w⟩ := a
    unfold Tbl.put
    split
    · have : ¬ k = j := fun e => h e.symm
      simp [Tbl.getD, this]
    · split
      · have : ¬ k = j := fun e => h e.symm
        subst a; simp [Tbl.getD, this]
      · unfold Tbl.getD; split
        · rfl
        · exact ih

@[simp] theorem getD_map {α : Type} (t : Tbl α) (d : α) (f : Nat → α → α) (k : Nat) (h : f k d = d) :
    Tbl.getD (t.map fun x => (x.1, f x.1 x.2)) d k = f k (Tbl.getD t d k) := by
  induction t with
  | nil => exact h.symm
  | cons a r ih =>
    obtain ⟨a, w⟩ := a
    simp only [List.map_cons, Tbl.getD]
    split
    · subst a; rfl
    · exact ih

/-! ### An entry after an update -/

@[simp] theorem getQ_setQ (s : State) (q : Nat) (v : Queue) : (s.setQ q v).getQ q = v := getD_put_self _ _ _ _
theorem getQ_setQ_ne (s : State) (q m : Nat) (v : Queue) (h : m ≠ q) : (s.setQ q v).getQ m = s.getQ m := getD_put_ne _ _ _ _ _ h
@[simp] theorem getQ_modQ (s : State) (q : Nat) (f : Queue → Queue) : (s.modQ q f).getQ q = f (s.getQ q) := getD_put_self _ _ _ _
theorem getQ_modQ_ne (s : State) (q m : Nat) (f : Queue → Queue) (h : m ≠ q) : (s.modQ q f).getQ m = s.getQ m := getD_put_ne _ _ _ _ _ h
@[simp] theorem getB_setB (s : State) (b : Nat) (v : Bay) : (s.setB b v).getB b = v := getD_put_self _ _ _ _
theorem getB_setB_ne (s : State) (b m : Nat) (v : Bay) (h : m ≠ b) : (s.setB b v).getB m = s.getB m := getD_put_ne _ _ _ _ _ h
@[simp] theorem getB_modB (s : State) (b : Nat) (f : Bay → Bay) : (s.modB b f).getB b = f (s.getB b) := getD_put_self _ _ _ _
theorem getB_modB_ne (s : State) (b m : Nat) (f : Bay → Bay) (h : m ≠ b) : (s.modB b f).getB m = s.getB m := getD_put_ne _ _ _ _ _ h
@[simp] theorem getP_setP (s : State) (n : Nat) (v : Port) : (s.setP n v).getP n = v := getD_put_self _ _ _ _
theorem getP_setP_ne (s : State) (n m : Nat) (v : Port) (h : m ≠ n) : (s.setP n v).getP m = s.getP m := getD_put_ne _ _ _ _ _ h
@[simp] theorem getP_modP (s : State) (n : Nat) (f : Port → Port) : (s.modP n f).getP n = f (s.getP n) := getD_put_self _ _ _ _
theorem getP_modP_ne (s : State) (n m : Nat) (f : Port → Port) (h : m ≠ n) : (s.modP n f).getP m = s.getP m := getD_put_ne _ _ _ _ _ h
@[simp] theorem getS_setS (s : State) (n : Nat) (v : Src) : (s.setS n v).getS n = v := getD_put_self _ _ _ _
theorem getS_setS_ne (s : State) (n m : Nat) (v : Src) (h : m ≠ n) : (s.setS n v).getS m = s.getS m := getD_put_ne _ _ _ _ _ h
@[simp] theorem getS_modS (s : State) (n : Nat) (f : Src → Src) : (s.modS n f).getS n = f (s.getS n) := getD_put_self _ _ _ _
theorem getS_modS_ne (s : State) (n m : Nat) (f : Src → Src) (h : m ≠ n) : (s.modS n f).getS m = s.getS m := getD_put_ne _ _ _ _ _ h
@[simp] theorem getT_setT (s : State) (t : Nat) (v : Tally) : (s.setT t v).getT t = v := getD_put_self _ _ _ _
theorem getT_setT_ne (s : State) (t m : Nat) (v : Tally) (h : m ≠ t) : (s.setT t v).getT m = s.getT m := getD_put_ne _ _ _ _ _ h
@[simp] theorem getH_setH (s : State) (c : Nat) (v : HostCh) : (s.setH c v).getH c = v := getD_put_self _ _ _ _
theorem getH_setH_ne (s : State) (c m : Nat) (v : HostCh) (h : m ≠ c) : (s.setH c v).getH m = s.getH m := getD_put_ne _ _ _ _ _ h

/-! ### Every other field after an update -/

@[simp] theorem setQ_cfg (s : State) (q : Nat) (v : Queue) : (s.setQ q v).cfg = s.cfg := rfl
@[simp] theorem setQ_pending (s : State) (q : Nat) (v : Queue) : (s.setQ q v).pending = s.pending := rfl
@[simp] theorem setQ_clk (s : State) (q : Nat) (v : Queue) : (s.setQ q v).clk = s.clk := rfl
@[simp] theorem setQ_free (s : State) (q : Nat) (v : Queue) : (s.setQ q v).free = s.free := rfl
@[simp] theorem setQ_eng (s : State) (q : Nat) (v : Queue) : (s.setQ q v).eng = s.eng := rfl
@[simp] theorem setQ_tick (s : State) (q : Nat) (v : Queue) : (s.setQ q v).tick = s.tick := rfl
@[simp] theorem setQ_adm (s : State) (q : Nat) (v : Queue) : (s.setQ q v).adm = s.adm := rfl
@[simp] theorem setQ_flt (s : State) (q : Nat) (v : Queue) : (s.setQ q v).flt = s.flt := rfl
@[simp] theorem setQ_sig (s : State) (q : Nat) (v : Queue) : (s.setQ q v).sig = s.sig := rfl
@[simp] theorem setQ_hst (s : State) (q : Nat) (v : Queue) : (s.setQ q v).hst = s.hst := rfl
@[simp] theorem setQ_tal (s : State) (q : Nat) (v : Queue) : (s.setQ q v).tal = s.tal := rfl
@[simp] theorem setQ_flights (s : State) (q : Nat) (v : Queue) : (s.setQ q v).flights = s.flights := rfl
@[simp] theorem setQ_nextId (s : State) (q : Nat) (v : Queue) : (s.setQ q v).nextId = s.nextId := rfl
@[simp] theorem setQ_reads (s : State) (q : Nat) (v : Queue) : (s.setQ q v).reads = s.reads := rfl
@[simp] theorem setQ_writes (s : State) (q : Nat) (v : Queue) : (s.setQ q v).writes = s.writes := rfl
@[simp] theorem setQ_locks (s : State) (q : Nat) (v : Queue) : (s.setQ q v).locks = s.locks := rfl
@[simp] theorem setQ_bay (s : State) (q : Nat) (v : Queue) : (s.setQ q v).bay = s.bay := rfl
@[simp] theorem setQ_inv (s : State) (q : Nat) (v : Queue) : (s.setQ q v).inv = s.inv := rfl
@[simp] theorem setQ_lnk (s : State) (q : Nat) (v : Queue) : (s.setQ q v).lnk = s.lnk := rfl
@[simp] theorem setQ_crib (s : State) (q : Nat) (v : Queue) : (s.setQ q v).crib = s.crib := rfl
@[simp] theorem setQ_gran (s : State) (q : Nat) (v : Queue) : (s.setQ q v).gran = s.gran := rfl
@[simp] theorem setQ_dbg (s : State) (q : Nat) (v : Queue) : (s.setQ q v).dbg = s.dbg := rfl
@[simp] theorem setQ_cs (s : State) (q : Nat) (v : Queue) : (s.setQ q v).cs = s.cs := rfl
@[simp] theorem setQ_masks (s : State) (q : Nat) (v : Queue) : (s.setQ q v).masks = s.masks := rfl
@[simp] theorem setQ_fe (s : State) (q : Nat) (v : Queue) : (s.setQ q v).fe = s.fe := rfl
@[simp] theorem setQ_owed (s : State) (q : Nat) (v : Queue) : (s.setQ q v).owed = s.owed := rfl
@[simp] theorem setQ_falls (s : State) (q : Nat) (v : Queue) : (s.setQ q v).falls = s.falls := rfl
@[simp] theorem setQ_start (s : State) (q : Nat) (v : Queue) : (s.setQ q v).start = s.start := rfl
@[simp] theorem modQ_cfg (s : State) (q : Nat) (f : Queue → Queue) : (s.modQ q f).cfg = s.cfg := rfl
@[simp] theorem modQ_pending (s : State) (q : Nat) (f : Queue → Queue) : (s.modQ q f).pending = s.pending := rfl
@[simp] theorem modQ_clk (s : State) (q : Nat) (f : Queue → Queue) : (s.modQ q f).clk = s.clk := rfl
@[simp] theorem modQ_free (s : State) (q : Nat) (f : Queue → Queue) : (s.modQ q f).free = s.free := rfl
@[simp] theorem modQ_eng (s : State) (q : Nat) (f : Queue → Queue) : (s.modQ q f).eng = s.eng := rfl
@[simp] theorem modQ_tick (s : State) (q : Nat) (f : Queue → Queue) : (s.modQ q f).tick = s.tick := rfl
@[simp] theorem modQ_adm (s : State) (q : Nat) (f : Queue → Queue) : (s.modQ q f).adm = s.adm := rfl
@[simp] theorem modQ_flt (s : State) (q : Nat) (f : Queue → Queue) : (s.modQ q f).flt = s.flt := rfl
@[simp] theorem modQ_sig (s : State) (q : Nat) (f : Queue → Queue) : (s.modQ q f).sig = s.sig := rfl
@[simp] theorem modQ_hst (s : State) (q : Nat) (f : Queue → Queue) : (s.modQ q f).hst = s.hst := rfl
@[simp] theorem modQ_tal (s : State) (q : Nat) (f : Queue → Queue) : (s.modQ q f).tal = s.tal := rfl
@[simp] theorem modQ_flights (s : State) (q : Nat) (f : Queue → Queue) : (s.modQ q f).flights = s.flights := rfl
@[simp] theorem modQ_nextId (s : State) (q : Nat) (f : Queue → Queue) : (s.modQ q f).nextId = s.nextId := rfl
@[simp] theorem modQ_reads (s : State) (q : Nat) (f : Queue → Queue) : (s.modQ q f).reads = s.reads := rfl
@[simp] theorem modQ_writes (s : State) (q : Nat) (f : Queue → Queue) : (s.modQ q f).writes = s.writes := rfl
@[simp] theorem modQ_locks (s : State) (q : Nat) (f : Queue → Queue) : (s.modQ q f).locks = s.locks := rfl
@[simp] theorem modQ_bay (s : State) (q : Nat) (f : Queue → Queue) : (s.modQ q f).bay = s.bay := rfl
@[simp] theorem modQ_inv (s : State) (q : Nat) (f : Queue → Queue) : (s.modQ q f).inv = s.inv := rfl
@[simp] theorem modQ_lnk (s : State) (q : Nat) (f : Queue → Queue) : (s.modQ q f).lnk = s.lnk := rfl
@[simp] theorem modQ_crib (s : State) (q : Nat) (f : Queue → Queue) : (s.modQ q f).crib = s.crib := rfl
@[simp] theorem modQ_gran (s : State) (q : Nat) (f : Queue → Queue) : (s.modQ q f).gran = s.gran := rfl
@[simp] theorem modQ_dbg (s : State) (q : Nat) (f : Queue → Queue) : (s.modQ q f).dbg = s.dbg := rfl
@[simp] theorem modQ_cs (s : State) (q : Nat) (f : Queue → Queue) : (s.modQ q f).cs = s.cs := rfl
@[simp] theorem modQ_masks (s : State) (q : Nat) (f : Queue → Queue) : (s.modQ q f).masks = s.masks := rfl
@[simp] theorem modQ_fe (s : State) (q : Nat) (f : Queue → Queue) : (s.modQ q f).fe = s.fe := rfl
@[simp] theorem modQ_owed (s : State) (q : Nat) (f : Queue → Queue) : (s.modQ q f).owed = s.owed := rfl
@[simp] theorem modQ_falls (s : State) (q : Nat) (f : Queue → Queue) : (s.modQ q f).falls = s.falls := rfl
@[simp] theorem modQ_start (s : State) (q : Nat) (f : Queue → Queue) : (s.modQ q f).start = s.start := rfl
@[simp] theorem setT_cfg (s : State) (t : Nat) (v : Tally) : (s.setT t v).cfg = s.cfg := rfl
@[simp] theorem setT_pending (s : State) (t : Nat) (v : Tally) : (s.setT t v).pending = s.pending := rfl
@[simp] theorem setT_clk (s : State) (t : Nat) (v : Tally) : (s.setT t v).clk = s.clk := rfl
@[simp] theorem setT_free (s : State) (t : Nat) (v : Tally) : (s.setT t v).free = s.free := rfl
@[simp] theorem setT_eng (s : State) (t : Nat) (v : Tally) : (s.setT t v).eng = s.eng := rfl
@[simp] theorem setT_tick (s : State) (t : Nat) (v : Tally) : (s.setT t v).tick = s.tick := rfl
@[simp] theorem setT_adm (s : State) (t : Nat) (v : Tally) : (s.setT t v).adm = s.adm := rfl
@[simp] theorem setT_flt (s : State) (t : Nat) (v : Tally) : (s.setT t v).flt = s.flt := rfl
@[simp] theorem setT_sig (s : State) (t : Nat) (v : Tally) : (s.setT t v).sig = s.sig := rfl
@[simp] theorem setT_hst (s : State) (t : Nat) (v : Tally) : (s.setT t v).hst = s.hst := rfl
@[simp] theorem setT_qs (s : State) (t : Nat) (v : Tally) : (s.setT t v).qs = s.qs := rfl
@[simp] theorem setT_flights (s : State) (t : Nat) (v : Tally) : (s.setT t v).flights = s.flights := rfl
@[simp] theorem setT_nextId (s : State) (t : Nat) (v : Tally) : (s.setT t v).nextId = s.nextId := rfl
@[simp] theorem setT_reads (s : State) (t : Nat) (v : Tally) : (s.setT t v).reads = s.reads := rfl
@[simp] theorem setT_writes (s : State) (t : Nat) (v : Tally) : (s.setT t v).writes = s.writes := rfl
@[simp] theorem setT_locks (s : State) (t : Nat) (v : Tally) : (s.setT t v).locks = s.locks := rfl
@[simp] theorem setT_bay (s : State) (t : Nat) (v : Tally) : (s.setT t v).bay = s.bay := rfl
@[simp] theorem setT_inv (s : State) (t : Nat) (v : Tally) : (s.setT t v).inv = s.inv := rfl
@[simp] theorem setT_lnk (s : State) (t : Nat) (v : Tally) : (s.setT t v).lnk = s.lnk := rfl
@[simp] theorem setT_crib (s : State) (t : Nat) (v : Tally) : (s.setT t v).crib = s.crib := rfl
@[simp] theorem setT_gran (s : State) (t : Nat) (v : Tally) : (s.setT t v).gran = s.gran := rfl
@[simp] theorem setT_dbg (s : State) (t : Nat) (v : Tally) : (s.setT t v).dbg = s.dbg := rfl
@[simp] theorem setT_cs (s : State) (t : Nat) (v : Tally) : (s.setT t v).cs = s.cs := rfl
@[simp] theorem setT_masks (s : State) (t : Nat) (v : Tally) : (s.setT t v).masks = s.masks := rfl
@[simp] theorem setT_fe (s : State) (t : Nat) (v : Tally) : (s.setT t v).fe = s.fe := rfl
@[simp] theorem setT_owed (s : State) (t : Nat) (v : Tally) : (s.setT t v).owed = s.owed := rfl
@[simp] theorem setT_falls (s : State) (t : Nat) (v : Tally) : (s.setT t v).falls = s.falls := rfl
@[simp] theorem setT_start (s : State) (t : Nat) (v : Tally) : (s.setT t v).start = s.start := rfl
@[simp] theorem setT_stray (s : State) (t : Nat) (v : Tally) : (s.setT t v).tal.stray = s.tal.stray := rfl
@[simp] theorem setT_wire (s : State) (t : Nat) (v : Tally) : (s.setT t v).tal.wire = s.tal.wire := rfl
@[simp] theorem setH_cfg (s : State) (c : Nat) (v : HostCh) : (s.setH c v).cfg = s.cfg := rfl
@[simp] theorem setH_pending (s : State) (c : Nat) (v : HostCh) : (s.setH c v).pending = s.pending := rfl
@[simp] theorem setH_clk (s : State) (c : Nat) (v : HostCh) : (s.setH c v).clk = s.clk := rfl
@[simp] theorem setH_free (s : State) (c : Nat) (v : HostCh) : (s.setH c v).free = s.free := rfl
@[simp] theorem setH_eng (s : State) (c : Nat) (v : HostCh) : (s.setH c v).eng = s.eng := rfl
@[simp] theorem setH_tick (s : State) (c : Nat) (v : HostCh) : (s.setH c v).tick = s.tick := rfl
@[simp] theorem setH_adm (s : State) (c : Nat) (v : HostCh) : (s.setH c v).adm = s.adm := rfl
@[simp] theorem setH_flt (s : State) (c : Nat) (v : HostCh) : (s.setH c v).flt = s.flt := rfl
@[simp] theorem setH_sig (s : State) (c : Nat) (v : HostCh) : (s.setH c v).sig = s.sig := rfl
@[simp] theorem setH_tal (s : State) (c : Nat) (v : HostCh) : (s.setH c v).tal = s.tal := rfl
@[simp] theorem setH_qs (s : State) (c : Nat) (v : HostCh) : (s.setH c v).qs = s.qs := rfl
@[simp] theorem setH_flights (s : State) (c : Nat) (v : HostCh) : (s.setH c v).flights = s.flights := rfl
@[simp] theorem setH_nextId (s : State) (c : Nat) (v : HostCh) : (s.setH c v).nextId = s.nextId := rfl
@[simp] theorem setH_reads (s : State) (c : Nat) (v : HostCh) : (s.setH c v).reads = s.reads := rfl
@[simp] theorem setH_writes (s : State) (c : Nat) (v : HostCh) : (s.setH c v).writes = s.writes := rfl
@[simp] theorem setH_locks (s : State) (c : Nat) (v : HostCh) : (s.setH c v).locks = s.locks := rfl
@[simp] theorem setH_bay (s : State) (c : Nat) (v : HostCh) : (s.setH c v).bay = s.bay := rfl
@[simp] theorem setH_inv (s : State) (c : Nat) (v : HostCh) : (s.setH c v).inv = s.inv := rfl
@[simp] theorem setH_lnk (s : State) (c : Nat) (v : HostCh) : (s.setH c v).lnk = s.lnk := rfl
@[simp] theorem setH_crib (s : State) (c : Nat) (v : HostCh) : (s.setH c v).crib = s.crib := rfl
@[simp] theorem setH_gran (s : State) (c : Nat) (v : HostCh) : (s.setH c v).gran = s.gran := rfl
@[simp] theorem setH_dbg (s : State) (c : Nat) (v : HostCh) : (s.setH c v).dbg = s.dbg := rfl
@[simp] theorem setH_cs (s : State) (c : Nat) (v : HostCh) : (s.setH c v).cs = s.cs := rfl
@[simp] theorem setH_masks (s : State) (c : Nat) (v : HostCh) : (s.setH c v).masks = s.masks := rfl
@[simp] theorem setH_fe (s : State) (c : Nat) (v : HostCh) : (s.setH c v).fe = s.fe := rfl
@[simp] theorem setH_owed (s : State) (c : Nat) (v : HostCh) : (s.setH c v).owed = s.owed := rfl
@[simp] theorem setH_falls (s : State) (c : Nat) (v : HostCh) : (s.setH c v).falls = s.falls := rfl
@[simp] theorem setH_start (s : State) (c : Nat) (v : HostCh) : (s.setH c v).start = s.start := rfl
@[simp] theorem setB_cfg (s : State) (b : Nat) (v : Bay) : (s.setB b v).cfg = s.cfg := rfl
@[simp] theorem setB_pending (s : State) (b : Nat) (v : Bay) : (s.setB b v).pending = s.pending := rfl
@[simp] theorem setB_clk (s : State) (b : Nat) (v : Bay) : (s.setB b v).clk = s.clk := rfl
@[simp] theorem setB_free (s : State) (b : Nat) (v : Bay) : (s.setB b v).free = s.free := rfl
@[simp] theorem setB_eng (s : State) (b : Nat) (v : Bay) : (s.setB b v).eng = s.eng := rfl
@[simp] theorem setB_tick (s : State) (b : Nat) (v : Bay) : (s.setB b v).tick = s.tick := rfl
@[simp] theorem setB_adm (s : State) (b : Nat) (v : Bay) : (s.setB b v).adm = s.adm := rfl
@[simp] theorem setB_flt (s : State) (b : Nat) (v : Bay) : (s.setB b v).flt = s.flt := rfl
@[simp] theorem setB_sig (s : State) (b : Nat) (v : Bay) : (s.setB b v).sig = s.sig := rfl
@[simp] theorem setB_hst (s : State) (b : Nat) (v : Bay) : (s.setB b v).hst = s.hst := rfl
@[simp] theorem setB_tal (s : State) (b : Nat) (v : Bay) : (s.setB b v).tal = s.tal := rfl
@[simp] theorem setB_qs (s : State) (b : Nat) (v : Bay) : (s.setB b v).qs = s.qs := rfl
@[simp] theorem setB_flights (s : State) (b : Nat) (v : Bay) : (s.setB b v).flights = s.flights := rfl
@[simp] theorem setB_nextId (s : State) (b : Nat) (v : Bay) : (s.setB b v).nextId = s.nextId := rfl
@[simp] theorem setB_reads (s : State) (b : Nat) (v : Bay) : (s.setB b v).reads = s.reads := rfl
@[simp] theorem setB_writes (s : State) (b : Nat) (v : Bay) : (s.setB b v).writes = s.writes := rfl
@[simp] theorem setB_locks (s : State) (b : Nat) (v : Bay) : (s.setB b v).locks = s.locks := rfl
@[simp] theorem setB_inv (s : State) (b : Nat) (v : Bay) : (s.setB b v).inv = s.inv := rfl
@[simp] theorem setB_lnk (s : State) (b : Nat) (v : Bay) : (s.setB b v).lnk = s.lnk := rfl
@[simp] theorem setB_crib (s : State) (b : Nat) (v : Bay) : (s.setB b v).crib = s.crib := rfl
@[simp] theorem setB_gran (s : State) (b : Nat) (v : Bay) : (s.setB b v).gran = s.gran := rfl
@[simp] theorem setB_dbg (s : State) (b : Nat) (v : Bay) : (s.setB b v).dbg = s.dbg := rfl
@[simp] theorem setB_cs (s : State) (b : Nat) (v : Bay) : (s.setB b v).cs = s.cs := rfl
@[simp] theorem setB_masks (s : State) (b : Nat) (v : Bay) : (s.setB b v).masks = s.masks := rfl
@[simp] theorem setB_fe (s : State) (b : Nat) (v : Bay) : (s.setB b v).fe = s.fe := rfl
@[simp] theorem setB_owed (s : State) (b : Nat) (v : Bay) : (s.setB b v).owed = s.owed := rfl
@[simp] theorem setB_falls (s : State) (b : Nat) (v : Bay) : (s.setB b v).falls = s.falls := rfl
@[simp] theorem setB_start (s : State) (b : Nat) (v : Bay) : (s.setB b v).start = s.start := rfl
@[simp] theorem modB_cfg (s : State) (b : Nat) (f : Bay → Bay) : (s.modB b f).cfg = s.cfg := rfl
@[simp] theorem modB_pending (s : State) (b : Nat) (f : Bay → Bay) : (s.modB b f).pending = s.pending := rfl
@[simp] theorem modB_clk (s : State) (b : Nat) (f : Bay → Bay) : (s.modB b f).clk = s.clk := rfl
@[simp] theorem modB_free (s : State) (b : Nat) (f : Bay → Bay) : (s.modB b f).free = s.free := rfl
@[simp] theorem modB_eng (s : State) (b : Nat) (f : Bay → Bay) : (s.modB b f).eng = s.eng := rfl
@[simp] theorem modB_tick (s : State) (b : Nat) (f : Bay → Bay) : (s.modB b f).tick = s.tick := rfl
@[simp] theorem modB_adm (s : State) (b : Nat) (f : Bay → Bay) : (s.modB b f).adm = s.adm := rfl
@[simp] theorem modB_flt (s : State) (b : Nat) (f : Bay → Bay) : (s.modB b f).flt = s.flt := rfl
@[simp] theorem modB_sig (s : State) (b : Nat) (f : Bay → Bay) : (s.modB b f).sig = s.sig := rfl
@[simp] theorem modB_hst (s : State) (b : Nat) (f : Bay → Bay) : (s.modB b f).hst = s.hst := rfl
@[simp] theorem modB_tal (s : State) (b : Nat) (f : Bay → Bay) : (s.modB b f).tal = s.tal := rfl
@[simp] theorem modB_qs (s : State) (b : Nat) (f : Bay → Bay) : (s.modB b f).qs = s.qs := rfl
@[simp] theorem modB_flights (s : State) (b : Nat) (f : Bay → Bay) : (s.modB b f).flights = s.flights := rfl
@[simp] theorem modB_nextId (s : State) (b : Nat) (f : Bay → Bay) : (s.modB b f).nextId = s.nextId := rfl
@[simp] theorem modB_reads (s : State) (b : Nat) (f : Bay → Bay) : (s.modB b f).reads = s.reads := rfl
@[simp] theorem modB_writes (s : State) (b : Nat) (f : Bay → Bay) : (s.modB b f).writes = s.writes := rfl
@[simp] theorem modB_locks (s : State) (b : Nat) (f : Bay → Bay) : (s.modB b f).locks = s.locks := rfl
@[simp] theorem modB_inv (s : State) (b : Nat) (f : Bay → Bay) : (s.modB b f).inv = s.inv := rfl
@[simp] theorem modB_lnk (s : State) (b : Nat) (f : Bay → Bay) : (s.modB b f).lnk = s.lnk := rfl
@[simp] theorem modB_crib (s : State) (b : Nat) (f : Bay → Bay) : (s.modB b f).crib = s.crib := rfl
@[simp] theorem modB_gran (s : State) (b : Nat) (f : Bay → Bay) : (s.modB b f).gran = s.gran := rfl
@[simp] theorem modB_dbg (s : State) (b : Nat) (f : Bay → Bay) : (s.modB b f).dbg = s.dbg := rfl
@[simp] theorem modB_cs (s : State) (b : Nat) (f : Bay → Bay) : (s.modB b f).cs = s.cs := rfl
@[simp] theorem modB_masks (s : State) (b : Nat) (f : Bay → Bay) : (s.modB b f).masks = s.masks := rfl
@[simp] theorem modB_fe (s : State) (b : Nat) (f : Bay → Bay) : (s.modB b f).fe = s.fe := rfl
@[simp] theorem modB_owed (s : State) (b : Nat) (f : Bay → Bay) : (s.modB b f).owed = s.owed := rfl
@[simp] theorem modB_falls (s : State) (b : Nat) (f : Bay → Bay) : (s.modB b f).falls = s.falls := rfl
@[simp] theorem modB_start (s : State) (b : Nat) (f : Bay → Bay) : (s.modB b f).start = s.start := rfl
@[simp] theorem setP_cfg (s : State) (n : Nat) (v : Port) : (s.setP n v).cfg = s.cfg := rfl
@[simp] theorem setP_pending (s : State) (n : Nat) (v : Port) : (s.setP n v).pending = s.pending := rfl
@[simp] theorem setP_clk (s : State) (n : Nat) (v : Port) : (s.setP n v).clk = s.clk := rfl
@[simp] theorem setP_free (s : State) (n : Nat) (v : Port) : (s.setP n v).free = s.free := rfl
@[simp] theorem setP_eng (s : State) (n : Nat) (v : Port) : (s.setP n v).eng = s.eng := rfl
@[simp] theorem setP_tick (s : State) (n : Nat) (v : Port) : (s.setP n v).tick = s.tick := rfl
@[simp] theorem setP_adm (s : State) (n : Nat) (v : Port) : (s.setP n v).adm = s.adm := rfl
@[simp] theorem setP_flt (s : State) (n : Nat) (v : Port) : (s.setP n v).flt = s.flt := rfl
@[simp] theorem setP_sig (s : State) (n : Nat) (v : Port) : (s.setP n v).sig = s.sig := rfl
@[simp] theorem setP_hst (s : State) (n : Nat) (v : Port) : (s.setP n v).hst = s.hst := rfl
@[simp] theorem setP_tal (s : State) (n : Nat) (v : Port) : (s.setP n v).tal = s.tal := rfl
@[simp] theorem setP_qs (s : State) (n : Nat) (v : Port) : (s.setP n v).qs = s.qs := rfl
@[simp] theorem setP_flights (s : State) (n : Nat) (v : Port) : (s.setP n v).flights = s.flights := rfl
@[simp] theorem setP_nextId (s : State) (n : Nat) (v : Port) : (s.setP n v).nextId = s.nextId := rfl
@[simp] theorem setP_reads (s : State) (n : Nat) (v : Port) : (s.setP n v).reads = s.reads := rfl
@[simp] theorem setP_writes (s : State) (n : Nat) (v : Port) : (s.setP n v).writes = s.writes := rfl
@[simp] theorem setP_locks (s : State) (n : Nat) (v : Port) : (s.setP n v).locks = s.locks := rfl
@[simp] theorem setP_bay (s : State) (n : Nat) (v : Port) : (s.setP n v).bay = s.bay := rfl
@[simp] theorem setP_inv (s : State) (n : Nat) (v : Port) : (s.setP n v).inv = s.inv := rfl
@[simp] theorem setP_crib (s : State) (n : Nat) (v : Port) : (s.setP n v).crib = s.crib := rfl
@[simp] theorem setP_gran (s : State) (n : Nat) (v : Port) : (s.setP n v).gran = s.gran := rfl
@[simp] theorem setP_dbg (s : State) (n : Nat) (v : Port) : (s.setP n v).dbg = s.dbg := rfl
@[simp] theorem setP_cs (s : State) (n : Nat) (v : Port) : (s.setP n v).cs = s.cs := rfl
@[simp] theorem setP_masks (s : State) (n : Nat) (v : Port) : (s.setP n v).masks = s.masks := rfl
@[simp] theorem setP_fe (s : State) (n : Nat) (v : Port) : (s.setP n v).fe = s.fe := rfl
@[simp] theorem setP_owed (s : State) (n : Nat) (v : Port) : (s.setP n v).owed = s.owed := rfl
@[simp] theorem setP_falls (s : State) (n : Nat) (v : Port) : (s.setP n v).falls = s.falls := rfl
@[simp] theorem setP_start (s : State) (n : Nat) (v : Port) : (s.setP n v).start = s.start := rfl
@[simp] theorem setP_self (s : State) (n : Nat) (v : Port) : (s.setP n v).lnk.self = s.lnk.self := rfl
@[simp] theorem setP_timeout (s : State) (n : Nat) (v : Port) : (s.setP n v).lnk.timeout = s.lnk.timeout := rfl
@[simp] theorem setP_mcStall (s : State) (n : Nat) (v : Port) : (s.setP n v).lnk.mcStall = s.lnk.mcStall := rfl
@[simp] theorem setP_binLimit (s : State) (n : Nat) (v : Port) : (s.setP n v).lnk.binLimit = s.lnk.binLimit := rfl
@[simp] theorem setP_binIdle (s : State) (n : Nat) (v : Port) : (s.setP n v).lnk.binIdle = s.lnk.binIdle := rfl
@[simp] theorem setP_bins (s : State) (n : Nat) (v : Port) : (s.setP n v).lnk.bins = s.lnk.bins := rfl
@[simp] theorem setP_contribs (s : State) (n : Nat) (v : Port) : (s.setP n v).lnk.contribs = s.lnk.contribs := rfl
@[simp] theorem modP_cfg (s : State) (n : Nat) (f : Port → Port) : (s.modP n f).cfg = s.cfg := rfl
@[simp] theorem modP_pending (s : State) (n : Nat) (f : Port → Port) : (s.modP n f).pending = s.pending := rfl
@[simp] theorem modP_clk (s : State) (n : Nat) (f : Port → Port) : (s.modP n f).clk = s.clk := rfl
@[simp] theorem modP_free (s : State) (n : Nat) (f : Port → Port) : (s.modP n f).free = s.free := rfl
@[simp] theorem modP_eng (s : State) (n : Nat) (f : Port → Port) : (s.modP n f).eng = s.eng := rfl
@[simp] theorem modP_tick (s : State) (n : Nat) (f : Port → Port) : (s.modP n f).tick = s.tick := rfl
@[simp] theorem modP_adm (s : State) (n : Nat) (f : Port → Port) : (s.modP n f).adm = s.adm := rfl
@[simp] theorem modP_flt (s : State) (n : Nat) (f : Port → Port) : (s.modP n f).flt = s.flt := rfl
@[simp] theorem modP_sig (s : State) (n : Nat) (f : Port → Port) : (s.modP n f).sig = s.sig := rfl
@[simp] theorem modP_hst (s : State) (n : Nat) (f : Port → Port) : (s.modP n f).hst = s.hst := rfl
@[simp] theorem modP_tal (s : State) (n : Nat) (f : Port → Port) : (s.modP n f).tal = s.tal := rfl
@[simp] theorem modP_qs (s : State) (n : Nat) (f : Port → Port) : (s.modP n f).qs = s.qs := rfl
@[simp] theorem modP_flights (s : State) (n : Nat) (f : Port → Port) : (s.modP n f).flights = s.flights := rfl
@[simp] theorem modP_nextId (s : State) (n : Nat) (f : Port → Port) : (s.modP n f).nextId = s.nextId := rfl
@[simp] theorem modP_reads (s : State) (n : Nat) (f : Port → Port) : (s.modP n f).reads = s.reads := rfl
@[simp] theorem modP_writes (s : State) (n : Nat) (f : Port → Port) : (s.modP n f).writes = s.writes := rfl
@[simp] theorem modP_locks (s : State) (n : Nat) (f : Port → Port) : (s.modP n f).locks = s.locks := rfl
@[simp] theorem modP_bay (s : State) (n : Nat) (f : Port → Port) : (s.modP n f).bay = s.bay := rfl
@[simp] theorem modP_inv (s : State) (n : Nat) (f : Port → Port) : (s.modP n f).inv = s.inv := rfl
@[simp] theorem modP_crib (s : State) (n : Nat) (f : Port → Port) : (s.modP n f).crib = s.crib := rfl
@[simp] theorem modP_gran (s : State) (n : Nat) (f : Port → Port) : (s.modP n f).gran = s.gran := rfl
@[simp] theorem modP_dbg (s : State) (n : Nat) (f : Port → Port) : (s.modP n f).dbg = s.dbg := rfl
@[simp] theorem modP_cs (s : State) (n : Nat) (f : Port → Port) : (s.modP n f).cs = s.cs := rfl
@[simp] theorem modP_masks (s : State) (n : Nat) (f : Port → Port) : (s.modP n f).masks = s.masks := rfl
@[simp] theorem modP_fe (s : State) (n : Nat) (f : Port → Port) : (s.modP n f).fe = s.fe := rfl
@[simp] theorem modP_owed (s : State) (n : Nat) (f : Port → Port) : (s.modP n f).owed = s.owed := rfl
@[simp] theorem modP_falls (s : State) (n : Nat) (f : Port → Port) : (s.modP n f).falls = s.falls := rfl
@[simp] theorem modP_start (s : State) (n : Nat) (f : Port → Port) : (s.modP n f).start = s.start := rfl
@[simp] theorem modP_self (s : State) (n : Nat) (f : Port → Port) : (s.modP n f).lnk.self = s.lnk.self := rfl
@[simp] theorem modP_timeout (s : State) (n : Nat) (f : Port → Port) : (s.modP n f).lnk.timeout = s.lnk.timeout := rfl
@[simp] theorem modP_mcStall (s : State) (n : Nat) (f : Port → Port) : (s.modP n f).lnk.mcStall = s.lnk.mcStall := rfl
@[simp] theorem modP_binLimit (s : State) (n : Nat) (f : Port → Port) : (s.modP n f).lnk.binLimit = s.lnk.binLimit := rfl
@[simp] theorem modP_binIdle (s : State) (n : Nat) (f : Port → Port) : (s.modP n f).lnk.binIdle = s.lnk.binIdle := rfl
@[simp] theorem modP_bins (s : State) (n : Nat) (f : Port → Port) : (s.modP n f).lnk.bins = s.lnk.bins := rfl
@[simp] theorem modP_contribs (s : State) (n : Nat) (f : Port → Port) : (s.modP n f).lnk.contribs = s.lnk.contribs := rfl
@[simp] theorem setS_cfg (s : State) (n : Nat) (v : Src) : (s.setS n v).cfg = s.cfg := rfl
@[simp] theorem setS_pending (s : State) (n : Nat) (v : Src) : (s.setS n v).pending = s.pending := rfl
@[simp] theorem setS_clk (s : State) (n : Nat) (v : Src) : (s.setS n v).clk = s.clk := rfl
@[simp] theorem setS_free (s : State) (n : Nat) (v : Src) : (s.setS n v).free = s.free := rfl
@[simp] theorem setS_eng (s : State) (n : Nat) (v : Src) : (s.setS n v).eng = s.eng := rfl
@[simp] theorem setS_tick (s : State) (n : Nat) (v : Src) : (s.setS n v).tick = s.tick := rfl
@[simp] theorem setS_adm (s : State) (n : Nat) (v : Src) : (s.setS n v).adm = s.adm := rfl
@[simp] theorem setS_flt (s : State) (n : Nat) (v : Src) : (s.setS n v).flt = s.flt := rfl
@[simp] theorem setS_hst (s : State) (n : Nat) (v : Src) : (s.setS n v).hst = s.hst := rfl
@[simp] theorem setS_tal (s : State) (n : Nat) (v : Src) : (s.setS n v).tal = s.tal := rfl
@[simp] theorem setS_qs (s : State) (n : Nat) (v : Src) : (s.setS n v).qs = s.qs := rfl
@[simp] theorem setS_flights (s : State) (n : Nat) (v : Src) : (s.setS n v).flights = s.flights := rfl
@[simp] theorem setS_nextId (s : State) (n : Nat) (v : Src) : (s.setS n v).nextId = s.nextId := rfl
@[simp] theorem setS_reads (s : State) (n : Nat) (v : Src) : (s.setS n v).reads = s.reads := rfl
@[simp] theorem setS_writes (s : State) (n : Nat) (v : Src) : (s.setS n v).writes = s.writes := rfl
@[simp] theorem setS_locks (s : State) (n : Nat) (v : Src) : (s.setS n v).locks = s.locks := rfl
@[simp] theorem setS_bay (s : State) (n : Nat) (v : Src) : (s.setS n v).bay = s.bay := rfl
@[simp] theorem setS_inv (s : State) (n : Nat) (v : Src) : (s.setS n v).inv = s.inv := rfl
@[simp] theorem setS_lnk (s : State) (n : Nat) (v : Src) : (s.setS n v).lnk = s.lnk := rfl
@[simp] theorem setS_crib (s : State) (n : Nat) (v : Src) : (s.setS n v).crib = s.crib := rfl
@[simp] theorem setS_gran (s : State) (n : Nat) (v : Src) : (s.setS n v).gran = s.gran := rfl
@[simp] theorem setS_dbg (s : State) (n : Nat) (v : Src) : (s.setS n v).dbg = s.dbg := rfl
@[simp] theorem setS_cs (s : State) (n : Nat) (v : Src) : (s.setS n v).cs = s.cs := rfl
@[simp] theorem setS_masks (s : State) (n : Nat) (v : Src) : (s.setS n v).masks = s.masks := rfl
@[simp] theorem setS_fe (s : State) (n : Nat) (v : Src) : (s.setS n v).fe = s.fe := rfl
@[simp] theorem setS_owed (s : State) (n : Nat) (v : Src) : (s.setS n v).owed = s.owed := rfl
@[simp] theorem setS_falls (s : State) (n : Nat) (v : Src) : (s.setS n v).falls = s.falls := rfl
@[simp] theorem setS_start (s : State) (n : Nat) (v : Src) : (s.setS n v).start = s.start := rfl
@[simp] theorem setS_enable (s : State) (n : Nat) (v : Src) : (s.setS n v).sig.enable = s.sig.enable := rfl
@[simp] theorem setS_stray (s : State) (n : Nat) (v : Src) : (s.setS n v).sig.stray = s.sig.stray := rfl
@[simp] theorem setS_offer (s : State) (n : Nat) (v : Src) : (s.setS n v).sig.offer = s.sig.offer := rfl
@[simp] theorem setS_clockOn (s : State) (n : Nat) (v : Src) : (s.setS n v).sig.clockOn = s.sig.clockOn := rfl
@[simp] theorem modS_cfg (s : State) (n : Nat) (f : Src → Src) : (s.modS n f).cfg = s.cfg := rfl
@[simp] theorem modS_pending (s : State) (n : Nat) (f : Src → Src) : (s.modS n f).pending = s.pending := rfl
@[simp] theorem modS_clk (s : State) (n : Nat) (f : Src → Src) : (s.modS n f).clk = s.clk := rfl
@[simp] theorem modS_free (s : State) (n : Nat) (f : Src → Src) : (s.modS n f).free = s.free := rfl
@[simp] theorem modS_eng (s : State) (n : Nat) (f : Src → Src) : (s.modS n f).eng = s.eng := rfl
@[simp] theorem modS_tick (s : State) (n : Nat) (f : Src → Src) : (s.modS n f).tick = s.tick := rfl
@[simp] theorem modS_adm (s : State) (n : Nat) (f : Src → Src) : (s.modS n f).adm = s.adm := rfl
@[simp] theorem modS_flt (s : State) (n : Nat) (f : Src → Src) : (s.modS n f).flt = s.flt := rfl
@[simp] theorem modS_hst (s : State) (n : Nat) (f : Src → Src) : (s.modS n f).hst = s.hst := rfl
@[simp] theorem modS_tal (s : State) (n : Nat) (f : Src → Src) : (s.modS n f).tal = s.tal := rfl
@[simp] theorem modS_qs (s : State) (n : Nat) (f : Src → Src) : (s.modS n f).qs = s.qs := rfl
@[simp] theorem modS_flights (s : State) (n : Nat) (f : Src → Src) : (s.modS n f).flights = s.flights := rfl
@[simp] theorem modS_nextId (s : State) (n : Nat) (f : Src → Src) : (s.modS n f).nextId = s.nextId := rfl
@[simp] theorem modS_reads (s : State) (n : Nat) (f : Src → Src) : (s.modS n f).reads = s.reads := rfl
@[simp] theorem modS_writes (s : State) (n : Nat) (f : Src → Src) : (s.modS n f).writes = s.writes := rfl
@[simp] theorem modS_locks (s : State) (n : Nat) (f : Src → Src) : (s.modS n f).locks = s.locks := rfl
@[simp] theorem modS_bay (s : State) (n : Nat) (f : Src → Src) : (s.modS n f).bay = s.bay := rfl
@[simp] theorem modS_inv (s : State) (n : Nat) (f : Src → Src) : (s.modS n f).inv = s.inv := rfl
@[simp] theorem modS_lnk (s : State) (n : Nat) (f : Src → Src) : (s.modS n f).lnk = s.lnk := rfl
@[simp] theorem modS_crib (s : State) (n : Nat) (f : Src → Src) : (s.modS n f).crib = s.crib := rfl
@[simp] theorem modS_gran (s : State) (n : Nat) (f : Src → Src) : (s.modS n f).gran = s.gran := rfl
@[simp] theorem modS_dbg (s : State) (n : Nat) (f : Src → Src) : (s.modS n f).dbg = s.dbg := rfl
@[simp] theorem modS_cs (s : State) (n : Nat) (f : Src → Src) : (s.modS n f).cs = s.cs := rfl
@[simp] theorem modS_masks (s : State) (n : Nat) (f : Src → Src) : (s.modS n f).masks = s.masks := rfl
@[simp] theorem modS_fe (s : State) (n : Nat) (f : Src → Src) : (s.modS n f).fe = s.fe := rfl
@[simp] theorem modS_owed (s : State) (n : Nat) (f : Src → Src) : (s.modS n f).owed = s.owed := rfl
@[simp] theorem modS_falls (s : State) (n : Nat) (f : Src → Src) : (s.modS n f).falls = s.falls := rfl
@[simp] theorem modS_start (s : State) (n : Nat) (f : Src → Src) : (s.modS n f).start = s.start := rfl
@[simp] theorem modS_enable (s : State) (n : Nat) (f : Src → Src) : (s.modS n f).sig.enable = s.sig.enable := rfl
@[simp] theorem modS_stray (s : State) (n : Nat) (f : Src → Src) : (s.modS n f).sig.stray = s.sig.stray := rfl
@[simp] theorem modS_offer (s : State) (n : Nat) (f : Src → Src) : (s.modS n f).sig.offer = s.sig.offer := rfl
@[simp] theorem modS_clockOn (s : State) (n : Nat) (f : Src → Src) : (s.modS n f).sig.clockOn = s.sig.clockOn := rfl
@[simp] theorem setF_cfg (s : State) (f : Flight) : (s.setF f).cfg = s.cfg := rfl
@[simp] theorem setF_pending (s : State) (f : Flight) : (s.setF f).pending = s.pending := rfl
@[simp] theorem setF_clk (s : State) (f : Flight) : (s.setF f).clk = s.clk := rfl
@[simp] theorem setF_free (s : State) (f : Flight) : (s.setF f).free = s.free := rfl
@[simp] theorem setF_eng (s : State) (f : Flight) : (s.setF f).eng = s.eng := rfl
@[simp] theorem setF_tick (s : State) (f : Flight) : (s.setF f).tick = s.tick := rfl
@[simp] theorem setF_adm (s : State) (f : Flight) : (s.setF f).adm = s.adm := rfl
@[simp] theorem setF_flt (s : State) (f : Flight) : (s.setF f).flt = s.flt := rfl
@[simp] theorem setF_sig (s : State) (f : Flight) : (s.setF f).sig = s.sig := rfl
@[simp] theorem setF_hst (s : State) (f : Flight) : (s.setF f).hst = s.hst := rfl
@[simp] theorem setF_tal (s : State) (f : Flight) : (s.setF f).tal = s.tal := rfl
@[simp] theorem setF_qs (s : State) (f : Flight) : (s.setF f).qs = s.qs := rfl
@[simp] theorem setF_nextId (s : State) (f : Flight) : (s.setF f).nextId = s.nextId := rfl
@[simp] theorem setF_reads (s : State) (f : Flight) : (s.setF f).reads = s.reads := rfl
@[simp] theorem setF_writes (s : State) (f : Flight) : (s.setF f).writes = s.writes := rfl
@[simp] theorem setF_locks (s : State) (f : Flight) : (s.setF f).locks = s.locks := rfl
@[simp] theorem setF_bay (s : State) (f : Flight) : (s.setF f).bay = s.bay := rfl
@[simp] theorem setF_inv (s : State) (f : Flight) : (s.setF f).inv = s.inv := rfl
@[simp] theorem setF_lnk (s : State) (f : Flight) : (s.setF f).lnk = s.lnk := rfl
@[simp] theorem setF_crib (s : State) (f : Flight) : (s.setF f).crib = s.crib := rfl
@[simp] theorem setF_gran (s : State) (f : Flight) : (s.setF f).gran = s.gran := rfl
@[simp] theorem setF_dbg (s : State) (f : Flight) : (s.setF f).dbg = s.dbg := rfl
@[simp] theorem setF_cs (s : State) (f : Flight) : (s.setF f).cs = s.cs := rfl
@[simp] theorem setF_masks (s : State) (f : Flight) : (s.setF f).masks = s.masks := rfl
@[simp] theorem setF_fe (s : State) (f : Flight) : (s.setF f).fe = s.fe := rfl
@[simp] theorem setF_owed (s : State) (f : Flight) : (s.setF f).owed = s.owed := rfl
@[simp] theorem setF_falls (s : State) (f : Flight) : (s.setF f).falls = s.falls := rfl
@[simp] theorem setF_start (s : State) (f : Flight) : (s.setF f).start = s.start := rfl
@[simp] theorem dropF_cfg (s : State) (i : Nat) : (s.dropF i).cfg = s.cfg := rfl
@[simp] theorem dropF_pending (s : State) (i : Nat) : (s.dropF i).pending = s.pending := rfl
@[simp] theorem dropF_clk (s : State) (i : Nat) : (s.dropF i).clk = s.clk := rfl
@[simp] theorem dropF_free (s : State) (i : Nat) : (s.dropF i).free = s.free := rfl
@[simp] theorem dropF_eng (s : State) (i : Nat) : (s.dropF i).eng = s.eng := rfl
@[simp] theorem dropF_tick (s : State) (i : Nat) : (s.dropF i).tick = s.tick := rfl
@[simp] theorem dropF_adm (s : State) (i : Nat) : (s.dropF i).adm = s.adm := rfl
@[simp] theorem dropF_flt (s : State) (i : Nat) : (s.dropF i).flt = s.flt := rfl
@[simp] theorem dropF_sig (s : State) (i : Nat) : (s.dropF i).sig = s.sig := rfl
@[simp] theorem dropF_hst (s : State) (i : Nat) : (s.dropF i).hst = s.hst := rfl
@[simp] theorem dropF_tal (s : State) (i : Nat) : (s.dropF i).tal = s.tal := rfl
@[simp] theorem dropF_qs (s : State) (i : Nat) : (s.dropF i).qs = s.qs := rfl
@[simp] theorem dropF_nextId (s : State) (i : Nat) : (s.dropF i).nextId = s.nextId := rfl
@[simp] theorem dropF_reads (s : State) (i : Nat) : (s.dropF i).reads = s.reads := rfl
@[simp] theorem dropF_writes (s : State) (i : Nat) : (s.dropF i).writes = s.writes := rfl
@[simp] theorem dropF_locks (s : State) (i : Nat) : (s.dropF i).locks = s.locks := rfl
@[simp] theorem dropF_bay (s : State) (i : Nat) : (s.dropF i).bay = s.bay := rfl
@[simp] theorem dropF_inv (s : State) (i : Nat) : (s.dropF i).inv = s.inv := rfl
@[simp] theorem dropF_lnk (s : State) (i : Nat) : (s.dropF i).lnk = s.lnk := rfl
@[simp] theorem dropF_crib (s : State) (i : Nat) : (s.dropF i).crib = s.crib := rfl
@[simp] theorem dropF_gran (s : State) (i : Nat) : (s.dropF i).gran = s.gran := rfl
@[simp] theorem dropF_dbg (s : State) (i : Nat) : (s.dropF i).dbg = s.dbg := rfl
@[simp] theorem dropF_cs (s : State) (i : Nat) : (s.dropF i).cs = s.cs := rfl
@[simp] theorem dropF_masks (s : State) (i : Nat) : (s.dropF i).masks = s.masks := rfl
@[simp] theorem dropF_fe (s : State) (i : Nat) : (s.dropF i).fe = s.fe := rfl
@[simp] theorem dropF_owed (s : State) (i : Nat) : (s.dropF i).owed = s.owed := rfl
@[simp] theorem dropF_falls (s : State) (i : Nat) : (s.dropF i).falls = s.falls := rfl
@[simp] theorem dropF_start (s : State) (i : Nat) : (s.dropF i).start = s.start := rfl

/-! ### Commands -/

/-- A command whose condition holds acts. -/
theorem act_true (s : State) (f : State → State) (h : s.runs = true) : act s true f = .next (f s) := by simp [act, h]

/-- A command whose condition holds acts. -/
theorem act_of (s : State) (c : Bool) (f : State → State) (h : s.runs = true) (hc : c = true) : act s c f = .next (f s) := by
  simp [act, h, hc]

/-- A command whose condition does not hold leaves the state. -/
theorem act_not (s : State) (c : Bool) (f : State → State) (hc : c = false) : act s c f = .next s := by simp [act, hc]

/-- A frozen block leaves the state. -/
theorem act_frozen (s : State) (c : Bool) (f : State → State) (h : s.runs = false) : act s c f = .next s := by simp [act, h]

/-- Counting a write touches the count and its own notes alone. -/
theorem noteReg_frame (s : State) (o : Nat) : { noteReg s o with eng := s.eng, clk := s.clk } = s := rfl

/-- An answer touches the ports' own state alone. -/
theorem answered_frame (s : State) (n : Nat) (v : DWord) : { answered s n v with cs := s.cs } = s := rfl

@[simp] theorem noteWrite_testShut (s : State) (n o port off : Nat) : testShut (noteWrite s n o) port off = testShut s port off := rfl

/-- A register write that is applied at once, that reaches its register and whose condition holds acts on the state in which it is counted.
-/
theorem wr_of (c : Instr) (s : State) (port off : Nat) (p : State → Bool) (f : State → State) (h : s.runs = true) (ho : csOpen s port = true)
    (ht : testShut s port off = false) (hp : p (noteWrite s port off) = true) : wr c s port off p f = .next (f (noteWrite s port off)) := by
  simp [wr, csTake, act, h, ho, ht, hp]

/-- One whose condition does not hold is counted. -/
theorem wr_not (c : Instr) (s : State) (port off : Nat) (p : State → Bool) (f : State → State) (h : s.runs = true) (ho : csOpen s port = true)
    (hp : p (noteWrite s port off) = false) : wr c s port off p f = .next (noteWrite s port off) := by
  simp [wr, csTake, act, h, ho, hp]

@[simp] theorem noteWrite_cfg (s : State) (n o : Nat) : (noteWrite s n o).cfg = s.cfg := rfl
@[simp] theorem noteWrite_pending (s : State) (n o : Nat) : (noteWrite s n o).pending = s.pending := rfl
@[simp] theorem noteWrite_free (s : State) (n o : Nat) : (noteWrite s n o).free = s.free := rfl
@[simp] theorem noteWrite_tick (s : State) (n o : Nat) : (noteWrite s n o).tick = s.tick := rfl
@[simp] theorem noteWrite_adm (s : State) (n o : Nat) : (noteWrite s n o).adm = s.adm := rfl
@[simp] theorem noteWrite_flt (s : State) (n o : Nat) : (noteWrite s n o).flt = s.flt := rfl
@[simp] theorem noteWrite_sig (s : State) (n o : Nat) : (noteWrite s n o).sig = s.sig := rfl
@[simp] theorem noteWrite_hst (s : State) (n o : Nat) : (noteWrite s n o).hst = s.hst := rfl
@[simp] theorem noteWrite_tal (s : State) (n o : Nat) : (noteWrite s n o).tal = s.tal := rfl
@[simp] theorem noteWrite_qs (s : State) (n o : Nat) : (noteWrite s n o).qs = s.qs := rfl
@[simp] theorem noteWrite_flights (s : State) (n o : Nat) : (noteWrite s n o).flights = s.flights := rfl
@[simp] theorem noteWrite_nextId (s : State) (n o : Nat) : (noteWrite s n o).nextId = s.nextId := rfl
@[simp] theorem noteWrite_reads (s : State) (n o : Nat) : (noteWrite s n o).reads = s.reads := rfl
@[simp] theorem noteWrite_writes (s : State) (n o : Nat) : (noteWrite s n o).writes = s.writes := rfl
@[simp] theorem noteWrite_locks (s : State) (n o : Nat) : (noteWrite s n o).locks = s.locks := rfl
@[simp] theorem noteWrite_bay (s : State) (n o : Nat) : (noteWrite s n o).bay = s.bay := rfl
@[simp] theorem noteWrite_inv (s : State) (n o : Nat) : (noteWrite s n o).inv = s.inv := rfl
@[simp] theorem noteWrite_lnk (s : State) (n o : Nat) : (noteWrite s n o).lnk = s.lnk := rfl
@[simp] theorem noteWrite_crib (s : State) (n o : Nat) : (noteWrite s n o).crib = s.crib := rfl
@[simp] theorem noteWrite_gran (s : State) (n o : Nat) : (noteWrite s n o).gran = s.gran := rfl
@[simp] theorem noteWrite_dbg (s : State) (n o : Nat) : (noteWrite s n o).dbg = s.dbg := rfl
@[simp] theorem noteWrite_fe (s : State) (n o : Nat) : (noteWrite s n o).fe = s.fe := rfl
@[simp] theorem noteWrite_owed (s : State) (n o : Nat) : (noteWrite s n o).owed = s.owed := rfl
@[simp] theorem noteWrite_falls (s : State) (n o : Nat) : (noteWrite s n o).falls = s.falls := rfl
@[simp] theorem noteWrite_start (s : State) (n o : Nat) : (noteWrite s n o).start = s.start := rfl
@[simp] theorem noteWrite_masks (s : State) (n o : Nat) : (noteWrite s n o).masks = s.masks := rfl
@[simp] theorem noteWrite_state (s : State) (n o : Nat) : (noteWrite s n o).eng.state = s.eng.state := rfl
@[simp] theorem noteWrite_cause (s : State) (n o : Nat) : (noteWrite s n o).eng.cause = s.eng.cause := rfl
@[simp] theorem noteWrite_latTol (s : State) (n o : Nat) : (noteWrite s n o).eng.latTol = s.eng.latTol := rfl
@[simp] theorem noteWrite_gmem (s : State) (n o : Nat) : (noteWrite s n o).eng.gmem = s.eng.gmem := rfl
@[simp] theorem noteWrite_gHeld (s : State) (n o : Nat) : (noteWrite s n o).eng.gHeld = s.eng.gHeld := rfl
@[simp] theorem noteWrite_gFaultAt (s : State) (n o : Nat) : (noteWrite s n o).eng.gFaultAt = s.eng.gFaultAt := rfl
@[simp] theorem noteWrite_hashing (s : State) (n o : Nat) : (noteWrite s n o).eng.hashing = s.eng.hashing := rfl
@[simp] theorem noteWrite_reuse (s : State) (n o : Nat) : (noteWrite s n o).eng.reuse = s.eng.reuse := rfl
@[simp] theorem noteWrite_since (s : State) (n o : Nat) : (noteWrite s n o).eng.since = s.eng.since := rfl
@[simp] theorem noteWrite_fetchTimeout (s : State) (n o : Nat) : (noteWrite s n o).eng.fetchTimeout = s.eng.fetchTimeout := rfl
@[simp] theorem noteWrite_imgKept (s : State) (n o : Nat) : (noteWrite s n o).eng.imgKept = s.eng.imgKept := rfl
@[simp] theorem noteWrite_fwBase (s : State) (n o : Nat) : (noteWrite s n o).eng.fwBase = s.eng.fwBase := rfl
@[simp] theorem noteWrite_fwLen (s : State) (n o : Nat) : (noteWrite s n o).eng.fwLen = s.eng.fwLen := rfl
@[simp] theorem noteWrite_skipTest (s : State) (n o : Nat) : (noteWrite s n o).eng.skipTest = s.eng.skipTest := rfl
@[simp] theorem noteWrite_testBase (s : State) (n o : Nat) : (noteWrite s n o).eng.testBase = s.eng.testBase := rfl
@[simp] theorem noteWrite_digest (s : State) (n o : Nat) : (noteWrite s n o).eng.digest = s.eng.digest := rfl
@[simp] theorem noteWrite_gclk (s : State) (n o : Nat) : (noteWrite s n o).clk.gclk = s.clk.gclk := rfl
@[simp] theorem noteWrite_getQ (s : State) (n o q : Nat) : (noteWrite s n o).getQ q = s.getQ q := rfl
@[simp] theorem noteWrite_getB (s : State) (n o b : Nat) : (noteWrite s n o).getB b = s.getB b := rfl
@[simp] theorem noteWrite_getP (s : State) (n o k : Nat) : (noteWrite s n o).getP k = s.getP k := rfl
@[simp] theorem noteWrite_getS (s : State) (n o k : Nat) : (noteWrite s n o).getS k = s.getS k := rfl
@[simp] theorem noteWrite_getT (s : State) (n o t : Nat) : (noteWrite s n o).getT t = s.getT t := rfl
@[simp] theorem noteWrite_getH (s : State) (n o c : Nat) : (noteWrite s n o).getH c = s.getH c := rfl
@[simp] theorem noteWrite_held (s : State) (n o : Nat) : (noteWrite s n o).held = s.held := rfl
@[simp] theorem noteWrite_runs (s : State) (n o : Nat) : (noteWrite s n o).runs = s.runs := rfl

end Sys2Proof.Machine
end

