-- ==== Sys2Proof/Laws/Effects.lean ====
section
/-!
SUPPORT. Laws/Effects.lean: what the operations that many commands share can do, each said once: a pulse, an event and its record,
arrivals and firings, a register write that reaches its register, and what pumps an instruction that has
nothing left to issue.
-/
namespace Sys2Proof.Machine

/-- A register write that reaches its register is counted, and acts while its condition holds. -/
theorem wr_reaches {s : State} {port off : Nat} (h : Reaches s port off) (i : Instr) (c : State → Bool) (f : State → State) :
    wr i s port off c f = .next (if c (noteWrite s port off) then f (noteWrite s port off) else noteWrite s port off) := by
  obtain ⟨h1, h2, h4⟩ := h
  have h3 : testShut (noteWrite s port off) port off = false := h2
  simp [wr, csTake, act, h1, h3, h4]

/-- A register write that is accepted, but asks together with others, waits for the rounds, and changes nothing else. -/
theorem wr_waits {s : State} {port : Nat} (off : Nat) (h : s.runs = true) (ho : csOpen s port = false) (hr : csRoom s port = true)
    (i : Instr) (c : State → Bool) (f : State → State) :
    wr i s port off c f = .next { s with cs := { s.cs.accept port false 0#64 with wait := s.cs.wait ++ [i] } } := by
  simp [wr, csTake, act, h, ho, hr]

/-- A pulse marks its source's input, and changes nothing else. -/
theorem pulse_eq (s : State) (n : Nat) : ∃ l, pulse s n = { s with sig.src := l } := by
  unfold pulse; split
  · exact ⟨_, rfl⟩
  · exact ⟨s.sig.src, rfl⟩

theorem pulse_getS (s : State) (n : Nat) (h : srcIsPulse n = true) : (pulse s n).getS n = { s.getS n with
    rise := true, pulseAt := some s.clk.gclk } := by
  simp [pulse, h]

theorem pulse_getS_ne (s : State) (n m : Nat) (h : m ≠ n) : (pulse s n).getS m = s.getS m := by
  unfold pulse; split
  · exact getS_modS_ne s n m _ h
  · rfl

/-- An event waits in the fault unit for the end of its GCLK, and changes nothing else. -/
theorem raise_eq (s : State) (e : Ev) : ∃ l, raise s e = { s with flt.evs := l } := by
  unfold raise; split
  · exact ⟨_, rfl⟩
  · exact ⟨s.flt.evs, rfl⟩

/-- So do several events. -/
theorem raiseAll_eq (l : List Ev) (s : State) : ∃ w, raiseAll s l = { s with flt.evs := w } := by
  induction l generalizing s with
  | nil => exact ⟨s.flt.evs, rfl⟩
  | cons a r ih =>
    obtain ⟨w, h⟩ := raise_eq s a
    obtain ⟨w', h'⟩ := ih { s with flt.evs := w }
    exact ⟨w', (congrArg (fun t => raiseAll t r) h).trans h'⟩

/-- What a class D record changes. -/
theorem classD_eq (t : State) : ∃ f g x, classD t = { t with flt := f, eng := g, fe := x } := by
  unfold classD; split
  · exact ⟨_, t.eng, t.fe, rfl⟩
  · split
    · exact ⟨t.flt, _, _, rfl⟩
    · exact ⟨t.flt, t.eng, t.fe, rfl⟩
  · split
    · exact ⟨t.flt, _, t.fe, rfl⟩
    · exact ⟨t.flt, t.eng, t.fe, rfl⟩
  · exact ⟨t.flt, t.eng, t.fe, rfl⟩

/-- A record changes the fault unit, and may mark a source's input, note that SAFE is due, and stop the granger and a load's reads. -/
theorem record_eq (s : State) (e : Ev) : ∃ f l g x, record s e = { s with flt := f, sig.src := l, eng := g, fe := x } := by
  unfold record
  dsimp only
  split
  · exact ⟨s.flt, s.sig.src, s.eng, s.fe, rfl⟩
  · have h2 : ∃ f g x, (if (classify s.flt s.tick.count.toNat e.src).k = 3
        then classD { s with flt := (classify s.flt s.tick.count.toNat e.src).unit }
        else { s with flt := (classify s.flt s.tick.count.toNat e.src).unit }) = { s with flt := f, eng := g, fe := x } := by
      split
      · obtain ⟨f, g, x, h⟩ := classD_eq { s with flt := (classify s.flt s.tick.count.toNat e.src).unit }
        exact ⟨f, g, x, h⟩
      · exact ⟨_, s.eng, s.fe, rfl⟩
    obtain ⟨f, g, x, h2⟩ := h2
    rw [h2]
    split
    · obtain ⟨l, h⟩ := pulse_eq { s with flt := putHist f (histRecord e s.tick.count.toNat f.nextSeq
        (classify s.flt s.tick.count.toNat e.src).k (bits (fltCfg s.flt e.src).toNat 0 2)
        (classify s.flt s.tick.count.toNat e.src).counted (classify s.flt s.tick.count.toNat e.src).esc), eng := g, fe := x } 1
      exact ⟨_, l, g, x, h⟩
    · exact ⟨f, s.sig.src, g, x, rfl⟩

/-- Outside LOAD and TEST a record leaves the engine's registers alone. -/
theorem record_eng (s : State) (e : Ev) (h1 : s.eng.state ≠ .load) (h2 : s.eng.state ≠ .test) : (record s e).eng = s.eng := by
  have hd : ∀ t : State, t.eng = s.eng → (classD t).eng = s.eng := by
    intro t ht; unfold classD; split
    · exact ht
    · rename_i h; rw [ht] at h; exact absurd h h1
    · rename_i h; rw [ht] at h; exact absurd h h2
    · exact ht
  have hp : ∀ (t : State) n, (pulse t n).eng = t.eng := by
    intro t n; obtain ⟨l, h⟩ := pulse_eq t n; rw [h]
  unfold record; dsimp only; split
  · rfl
  · repeat' split
    all_goals first | rw [hp]; exact hd _ rfl | rw [hp] | exact hd _ rfl | rfl

/-- A wake wire's firing changes that wire. -/
theorem fireWire_eq (s : State) (w : Wake) : ∃ l, fireWire s w = { s with tal.wire := l } := by
  unfold fireWire; split
  · exact ⟨_, rfl⟩
  · exact ⟨s.tal.wire, rfl⟩

/-- So do the firings of several wires. -/
theorem fireWires_eq (l : List Wake) (s : State) : ∃ w, each s l fireWire = { s with tal.wire := w } := by
  induction l generalizing s with
  | nil => exact ⟨s.tal.wire, rfl⟩
  | cons a r ih =>
    obtain ⟨w, h⟩ := fireWire_eq s a
    obtain ⟨w', h'⟩ := ih { s with tal.wire := w }
    exact ⟨w', (congrArg (fun t => each t r fireWire) h).trans h'⟩

/-- A firing changes wires, host channels and one source's input. -/
theorem fireOutputs_eq (s : State) (t : Nat) : ∃ w l, fireOutputs s t = { s with
    tal.wire := w, sig.src := l
    hst := s.hst.map fun (c, h) => (c, if watches s c t then { h with pending := true } else h) } := by
  obtain ⟨w, h⟩ := fireWires_eq [(s.getT t).wake0, (s.getT t).wake1, (s.getT t).wake2, (s.getT t).wake3] s
  simp only [fireOutputs, h]
  split
  · obtain ⟨l, h5⟩ := pulse_eq { s with tal.wire := w, hst := s.hst.map fun (c, h) =>
      (c, if watches s c t then { h with pending := true } else h) } (s.start.tal.tally.getD {} t).sigSrc
    exact ⟨w, l, h5⟩
  · exact ⟨w, s.sig.src, rfl⟩

/-- The tally after n arrivals, in the words of R353. -/
theorem countArrivals_eq (y : Tally) (k : Arr) (n : Nat) : (countArrivals y k n).1 = { y with
      count := (y.count + n) % y.target
      fire := (y.fire + (y.count + n) / y.target) % 65536
      fault := y.fault || k != .normal
      epoch := if k != .normal && !y.fault then (y.fire + 1) % 65536 else y.epoch
      abandon := if k = .abandoned then min (y.abandon + n) 0xFFF else y.abandon
      idle := 0
      armed := if (y.count + n) % y.target > 0 then true else if (y.count + n) / y.target > 0 then false else y.armed } := by
  cases hf : y.fault <;> cases k <;> simp [countArrivals, hf]

/-- Arrivals wait at their tally for the end of their GCLK, and change nothing else. -/
theorem arrive_eq (s : State) (t : Nat) (k : Arr) (n : Nat) : ∃ x, arrive s t k n = { s with tal.todo := s.tal.todo.put t x } := ⟨_, rfl⟩

/-- A tally to which a GCLK brings nothing is left as it was. -/
theorem takes_none (y : Tally) : y.takes {} = (y, false) := rfl

/-- Arrivals that complete no round fire nothing. -/
theorem countArrivals_quiet (y : Tally) (k : Arr) (n : Nat) (h : y.count + n < y.target) : (countArrivals y k n).2 = false := by
  have hz : (y.count + n) / y.target = 0 := Nat.div_eq_of_lt h
  cases k <;> cases hf : y.fault <;> simp [countArrivals, hf, hz]

/-- The end of a GCLK at a tally changes no other tally. -/
theorem talStep_getT_ne (s : State) (t n : Nat) (x : TalDo) (h : n ≠ t) : (talStep s t x).getT n = s.getT n := by
  have h1 : ∀ v, (s.setT t v).getT n = s.getT n := fun v => getT_setT_ne _ _ _ _ h
  have h2 : ∀ (u : State), (fireOutputs u t).getT n = u.getT n := by
    intro u; obtain ⟨w, l, e⟩ := fireOutputs_eq u t; rw [e]; rfl
  have h3 : ∀ (u : State) e m, (pulse (raise u e) m).getT n = u.getT n := by
    intro u e m; obtain ⟨l, e1⟩ := raise_eq u e; obtain ⟨w, e2⟩ := pulse_eq (raise u e) m; rw [e2, e1]; rfl
  have h4 : ∀ (u : State) m, (addStray u m).getT n = u.getT n := fun _ _ => rfl
  unfold talStep; dsimp only
  repeat' split
  all_goals simp only [h1, h2, h3, h4]

/-! ### An instruction that has nothing left to issue -/

/-- In a table of instructions with numbers of their own, a number names one instruction. -/
theorem flight_unique {l : List Flight} (h : (l.map (·.id)).Nodup) {f g : Flight} (hf : f ∈ l) (hg : g ∈ l) (e : g.id = f.id) : g = f := by
  induction l with
  | nil => cases hf
  | cons a r ih =>
    simp only [List.map_cons, List.nodup_cons, List.mem_map, not_exists, not_and] at h
    rcases List.mem_cons.mp hf with rfl | hf' <;> rcases List.mem_cons.mp hg with rfl | hg'
    · rfl
    · exact absurd e (h.1 g hg')
    · exact absurd e.symm (h.1 f hf')
    · exact ih h.2 hf' hg'

/-- Putting an instruction in its own place changes nothing. -/
theorem setF_same {s : State} {f : Flight} (h : (s.flights.map (·.id)).Nodup) (hf : f ∈ s.flights) : s.setF f = s := by
  have h1 : (s.flights.map fun g => if g.id = f.id then f else g) = s.flights.map id := by
    refine List.map_congr_left fun g hg => ?_
    by_cases e : g.id = f.id
    · simp [flight_unique h hf hg e]
    · simp [e]
  rw [List.map_id] at h1
  simp [State.setF, h1]

/-- The instruction in flight at an entry is in the table. -/
theorem Ready_mem {s : State} {q pos : Nat} {o : Op} {st : Stage} {f : Flight} (h : Ready s q pos o st f) : f ∈ s.flights :=
  List.mem_of_find?_eq_some h.found

/-- It is found by its number. -/
theorem Ready_flightOf {s : State} {q pos : Nat} {o : Op} {st : Stage} {f : Flight} (h : Ready s q pos o st f) :
    s.flightOf f.id = some f := by
  unfold State.flightOf
  cases e : s.flights.find? (fun g => g.id == f.id) with
  | none => exact absurd (List.find?_eq_none.mp e f (Ready_mem h)) (by simp)
  | some g =>
    have h1 : g.id = f.id := by simpa using List.find?_some e
    rw [flight_unique h.ids (Ready_mem h) (List.mem_of_find?_eq_some e) h1]

/-- An instruction that has landed every read of a first or second stage, and has no write waiting, is pumped without effect. -/
theorem pump_ready {s : State} {q pos : Nat} {o : Op} {st : Stage} {f : Flight} (h : Ready s q pos o st f)
    (hst : st = .first ∨ st = .second) : pump s f.id = s := by
  have hf := Ready_flightOf h
  have hs : s.setF f = s := setF_same h.ids (Ready_mem h)
  have hl : isListRead f = false := by
    obtain ⟨p, l, hp⟩ := List.exists_cons_of_ne_nil h.parts
    have := (h.live p (by simp [hp])).2
    simp [isListRead, hp, this]
  have hd : endParts s f.id = s := by
    have hi : ∀ i, ((!(f.parts.getD i { bay := 0 }).gone && ((f.parts.getD i { bay := 0 }).ctx.isSome || (f.parts.getD i { bay := 0 }).cut))
        && partIdle s f i) = false := by
      intro i
      have hc : (f.parts.getD i { bay := 0 }).cut = false := by
        rw [List.getD_eq_getElem?_getD]
        cases e : f.parts[i]? with
        | none => rfl
        | some p => exact (h.live p (List.mem_of_getElem? e)).1
      have : partIdle s f i = false := by
        unfold partIdle; rcases hst with rfl | rfl <;> simp only [hc, h.stage] <;> simp
      simp [this]
    have hn : ((List.range f.parts.length).filter fun i =>
        (!(f.parts.getD i { bay := 0 }).gone && ((f.parts.getD i { bay := 0 }).ctx.isSome || (f.parts.getD i { bay := 0 }).cut))
          && partIdle s f i) = [] := by
      simp only [hi, List.filter_eq_nil_iff, Bool.false_eq_true, not_false_eq_true, implies_true]
    unfold endParts
    simp only [hf, hn, each, List.foldl_nil, List.contains_nil, Bool.false_eq_true, if_false]
    have : f.parts.zipIdx.map (fun x => x.1) = f.parts := by simp
    simpa [this] using hs
  have e3 : flightStep s f.id = s := by
    have : (f.stage == .writing || f.stage == .recording) = false := by
      rcases hst with rfl | rfl <;> simp [h.stage]
    simp only [flightStep, hd, hf, h.whole]
    simp only [Bool.false_or, this, Bool.false_and, Bool.false_eq_true, if_false]
  unfold pump
  simp only [hf, hl, Bool.false_and, Bool.false_eq_true, if_false, e3]

/-- Where one entry of a bay's map cache covers an address, it is the one found. -/
theorem mapFind_one {s : State} {b va : Nat} {e : MapEnt} (ht : s.eng.state ≠ .test) (h : (s.getB b).mapc.filter (·.covers va) = [e]) : mapFind s b va = some e := by
  simp [mapFind, ht, h, Nat.mod_one]

/-- A part that may issue, with credit and a free tracker entry, asks for its first read whose pages are all cached. -/
theorem readAsk_new {s : State} {f : Flight} {i tag : Nat} {r : RdReq} {l : List RdReq} {p : Piece} {ps : List Piece}
    (hm : mayIssue s f i = true)
    (hw : s.reads.find? (fun r => r.wait && r.flight == f.id && r.req.part == i && (decodePa s r.pa).isNone) = none)
    (hc : readCredit s f i ≠ 0) (ht : freeTag (trkHeld s (f.bayOf i)) = some tag) (hf : f.todo.filter (fun r => r.part == i && readInWindow f r) = r :: l)
    (hp : portPieces s (f.bayOf i) r.va r.len = some (p :: ps)) :
    readAsk s f i = some ({ bay := f.bayOf i, tag, flight := f.id, req := { r with va := p.va, len := p.len }, pa := p.pa, rest := ps }, some r) := by
  have h0 : 0 < readCredit s f i := Nat.pos_of_ne_zero hc
  simp [readAsk, hm, hw, hc, ht, hf, hp, h0]

end Sys2Proof.Machine
end

