-- ==== Sys2Proof/Laws/Memory.lean ====
section
/-!
SUPPORT. Laws/Memory.lean: the canonical form of the block's own memories, that every operation on them keeps it, and what a read
answers after a write.
-/
namespace Sys2Proof.Machine

/-- A memory whose addresses lie above b has its addresses above every a ≤ b. -/
theorem Memory.wfFrom_mono {a b : Nat} {m : Memory} (h : a ≤ b) (w : Memory.wfFrom b m = true) : Memory.wfFrom a m = true := by
  cases m with
  | nil => rfl
  | cons x r =>
    obtain ⟨k, v⟩ := x
    simp only [Memory.wfFrom, Bool.and_eq_true, decide_eq_true_eq] at w ⊢
    exact ⟨⟨by omega, w.1.2⟩, w.2⟩

/-- A write at or above lo keeps the form above lo. -/
theorem Memory.write_wfFrom (m : Memory) (lo k : Nat) (v : Byte) (hk : lo ≤ k) (w : Memory.wfFrom lo m = true) :
    Memory.wfFrom lo (Memory.write m k v) = true := by
  induction m generalizing lo with
  | nil =>
    simp only [Memory.write]; split
    · rfl
    · simp [Memory.wfFrom, *]
  | cons x r ih =>
    obtain ⟨a, b⟩ := x
    have w' := w
    simp only [Memory.wfFrom, Bool.and_eq_true, decide_eq_true_eq] at w
    obtain ⟨⟨h1, h2⟩, h3⟩ := w
    simp only [Memory.write]
    split
    · split
      · exact w'
      · simp only [Memory.wfFrom, Bool.and_eq_true, decide_eq_true_eq, bne_iff_ne, ne_eq]
        exact ⟨⟨hk, ‹_›⟩, ⟨⟨by omega, by simpa using h2⟩, h3⟩⟩
    · split
      · split
        · exact Memory.wfFrom_mono (by omega) h3
        · subst_vars
          simp only [Memory.wfFrom, Bool.and_eq_true, decide_eq_true_eq, bne_iff_ne, ne_eq]
          exact ⟨⟨h1, ‹_›⟩, h3⟩
      · simp only [Memory.wfFrom, Bool.and_eq_true, decide_eq_true_eq]
        exact ⟨⟨h1, h2⟩, ih (a + 1) (by omega) h3⟩

/-- A write keeps the canonical form. -/
theorem Memory.write_wf {m : Memory} (k : Nat) (v : Byte) (w : m.wf = true) : (Memory.write m k v).wf = true :=
  Memory.write_wfFrom m 0 k v (Nat.zero_le _) w

/-- Writing consecutive bytes keeps the canonical form. -/
theorem Memory.writeAll_wf {m : Memory} (a : Nat) (l : List Byte) (w : m.wf = true) : (Memory.writeAll m a l).wf = true := by
  induction l generalizing m a with
  | nil => exact w
  | cons b r ih => exact ih (a + 1) (Memory.write_wf a b w)

/-- Below a canonical memory's first address nothing is listed. -/
theorem Memory.read_below {m : Memory} {lo k : Nat} (w : Memory.wfFrom lo m = true) (h : k < lo) : Memory.read m k = Memory.unlisted := by
  induction m generalizing lo with
  | nil => rfl
  | cons x r ih =>
    obtain ⟨a, b⟩ := x
    simp only [Memory.wfFrom, Bool.and_eq_true, decide_eq_true_eq] at w
    rw [Memory.read, if_neg (by omega), ih w.2 (by omega)]

theorem Memory.read_write_from (m : Memory) (lo k j : Nat) (v : Byte) (w : Memory.wfFrom lo m = true) :
    Memory.read (Memory.write m k v) j = if j = k then v else Memory.read m j := by
  induction m generalizing lo with
  | nil =>
    simp only [Memory.write]
    by_cases hv : v = Memory.unlisted
    · simp [hv, Memory.read]
    · by_cases h : j = k
      · simp [hv, Memory.read, h]
      · simp [hv, Memory.read, h, Ne.symm h]
  | cons x r ih =>
    obtain ⟨a, b⟩ := x
    simp only [Memory.wfFrom, Bool.and_eq_true, decide_eq_true_eq] at w
    obtain ⟨⟨h1, h2⟩, h3⟩ := w
    simp only [Memory.write]
    split
    · rename_i hka
      split
      · rename_i hv
        by_cases h : j = k
        · subst h
          rw [if_pos rfl, Memory.read, if_neg (by omega), Memory.read_below h3 (by omega), hv]
        · rw [if_neg h]
      · rw [Memory.read]
        by_cases h : j = k
        · rw [if_pos h.symm, if_pos h]
        · rw [if_neg (Ne.symm h), if_neg h]
    · split
      · rename_i hak
        split
        · rename_i hv
          by_cases h : j = k
          · rw [if_pos h, Memory.read_below h3 (by omega), hv]
          · rw [if_neg h, Memory.read, if_neg (by omega)]
        · rw [Memory.read, Memory.read]
          by_cases h : j = k
          · rw [if_pos h.symm, if_pos h]
          · rw [if_neg (Ne.symm h), if_neg h, if_neg (by omega)]
      · rw [Memory.read, Memory.read, ih (a + 1) h3]
        by_cases h : j = k
        · rw [if_neg (by omega), if_pos h, if_pos h]
        · rw [if_neg h, if_neg h]

/-- A read after a write in canonical form: the byte written at its address, what stood before anywhere else. -/
theorem Memory.read_write {m : Memory} (k j : Nat) (v : Byte) (w : m.wf = true) :
    (Memory.write m k v).read j = if j = k then v else m.read j := Memory.read_write_from m 0 k j v w

/-- After consecutive bytes are written, an address outside them reads as before. -/
theorem Memory.read_writeAll_of_out {m : Memory} (a j : Nat) (l : List Byte) (w : m.wf = true) (h : j < a ∨ a + l.length ≤ j) :
    (Memory.writeAll m a l).read j = m.read j := by
  induction l generalizing m a with
  | nil => rfl
  | cons b r ih =>
    simp only [List.length_cons] at h
    rw [Memory.writeAll, ih (a + 1) (Memory.write_wf a b w) (by omega), Memory.read_write a j b w, if_neg (by omega)]

/-- After consecutive bytes are written, each of their addresses reads its byte. -/
theorem Memory.read_writeAll_of_in {m : Memory} (a i : Nat) (l : List Byte) (w : m.wf = true) (h : i < l.length) :
    (Memory.writeAll m a l).read (a + i) = l[i] := by
  induction l generalizing m a i with
  | nil => simp at h
  | cons b r ih =>
    rw [Memory.writeAll]
    cases i with
    | zero =>
      rw [Memory.read_writeAll_of_out (a + 1) (a + 0) r (Memory.write_wf a b w) (by omega), Memory.read_write a (a + 0) b w]
      simp
    | succ n =>
      have := ih (a + 1) n (Memory.write_wf a b w) (by simpa using h)
      rw [show a + (n + 1) = a + 1 + n by omega, this]
      rfl

end Sys2Proof.Machine
end

