-- ==== Sys2Proof/Laws/Still.lean ====
section
/-!
SUPPORT. Laws/Still.lean: what the operations that the commands share leave unchanged, each operation once: the
configuration, the queue of commands, the clocks and ticks, the admin queue, the crib, the granger's memory, the debug path, the
control-space ports, the masks, the settings of the other units, and the block as it stood at the start of the GCLK.
-/
namespace Sys2Proof.Machine

/-- A record update outside those parts leaves them. -/
@[simp] theorem still_mk (s : State)
    (free : Nat) (eng : Eng) (flt : FaultUnit) (sig : SigUnit) (hst : Tbl HostCh) (tal : TallyFile) (qs : Tbl
    Queue) (fe : List FeReq) (flights : List Flight) (nextId : Nat) (reads : List Read) (writes : List Write)
    (locks : List Lock) (owed : List Lock) (bay : Tbl Bay) (inv : List Inv) (lnk : Links) (gran : Gran)
    (he : (eng.state, eng.gmem, eng.latTol, eng.fetchTimeout, eng.since) = (s.eng.state, s.eng.gmem, s.eng.latTol, s.eng.fetchTimeout, s.eng.since))
    (hf : (flt.cfg, flt.quietCfg, flt.testMode, flt.writes) = (s.flt.cfg, s.flt.quietCfg, s.flt.testMode, s.flt.writes))
    (hl : (lnk.self, lnk.timeout, lnk.mcStall, lnk.binLimit, lnk.binIdle) = (s.lnk.self, s.lnk.timeout, s.lnk.mcStall, s.lnk.binLimit, s.lnk.binIdle))
    (hg : (gran.stkBase, gran.stkSize, gran.stkIlv) = (s.gran.stkBase, s.gran.stkSize, s.gran.stkIlv)) :
    State.still ⟨⟨s.cfg, s.clk, free, eng, s.tick, s.adm, flt, sig, hst, tal, qs, fe, flights, nextId, reads, writes, locks, owed, bay, inv, lnk, s.crib, gran, s.dbg, s.cs, s.falls, s.masks⟩,
      s.pending, s.start⟩ = s.still := by
  simp only [State.still, he, hf, hl, hg]

/-- A branch leaves what both of its sides leave. -/
@[simp] theorem still_ite (c : Prop) [Decidable c] (a b : State) : (if c then a else b).still = if c then a.still else b.still :=
  apply_ite _ _ _ _

/-- Doing a still operation for each element of a list is still. -/
@[simp] theorem still_each {α : Type} (l : List α) (f : State → α → State) (h : ∀ s a, (f s a).still = s.still) (s : State) :
    (each s l f).still = s.still := by
  induction l generalizing s with
  | nil => rfl
  | cons a r ih => exact (ih (f s a)).trans (h s a)

@[simp] theorem still_foldl {α β : Type} (f : State × β → α → State × β) (h : ∀ x a, (f x a).1.still = x.1.still) (l : List α) :
    ∀ x, (l.foldl f x).1.still = x.1.still := by
  induction l with
  | nil => intro x; rfl
  | cons a r ih => intro x; exact (ih (f x a)).trans (h x a)

@[simp] theorem still_fold {α : Type} (f : State → α → State) (h : ∀ x a, (f x a).still = x.still) (l : List α) :
    ∀ x, (l.foldl f x).still = x.still := by
  induction l with
  | nil => intro x; rfl
  | cons a r ih => intro x; exact (ih (f x a)).trans (h x a)

theorem countEvent_cfg (f : FaultUnit) (t n : Nat) : ((countEvent f t n).1.cfg, (countEvent f t n).1.quietCfg,
    (countEvent f t n).1.testMode, (countEvent f t n).1.writes) = (f.cfg, f.quietCfg, f.testMode, f.writes) := by
  unfold countEvent; dsimp only; split
  · rfl
  · split <;> rfl

theorem classify_cfg (f : FaultUnit) (t n : Nat) : ((classify f t n).unit.cfg, (classify f t n).unit.quietCfg,
    (classify f t n).unit.testMode, (classify f t n).unit.writes) = (f.cfg, f.quietCfg, f.testMode, f.writes) := by
  have h := countEvent_cfg f t n
  unfold classify; dsimp only
  repeat' split
  all_goals exact h

@[simp] theorem still_setQ (s : State) (q : Nat) (v : Queue) : (State.setQ s q v).still = s.still := by
  unfold State.setQ
  try dsimp only
  (repeat' split) <;> first | rfl | (simp; done)

@[simp] theorem still_modQ (s : State) (q : Nat) (f : Queue → Queue) : (State.modQ s q f).still = s.still := by
  unfold State.modQ
  try dsimp only
  (repeat' split) <;> first | rfl | (simp; done)

@[simp] theorem still_setT (s : State) (t : Nat) (v : Tally) : (State.setT s t v).still = s.still := by
  unfold State.setT
  try dsimp only
  (repeat' split) <;> first | rfl | (simp; done)

@[simp] theorem still_setH (s : State) (c : Nat) (v : HostCh) : (State.setH s c v).still = s.still := by
  unfold State.setH
  try dsimp only
  (repeat' split) <;> first | rfl | (simp; done)

@[simp] theorem still_setB (s : State) (b : Nat) (v : Bay) : (State.setB s b v).still = s.still := by
  unfold State.setB
  try dsimp only
  (repeat' split) <;> first | rfl | (simp; done)

@[simp] theorem still_modB (s : State) (b : Nat) (f : Bay → Bay) : (State.modB s b f).still = s.still := by
  unfold State.modB
  try dsimp only
  (repeat' split) <;> first | rfl | (simp; done)

@[simp] theorem still_setP (s : State) (n : Nat) (v : Port) : (State.setP s n v).still = s.still := by
  unfold State.setP
  try dsimp only
  (repeat' split) <;> first | rfl | (simp; done)

@[simp] theorem still_modP (s : State) (n : Nat) (f : Port → Port) : (State.modP s n f).still = s.still := by
  unfold State.modP
  try dsimp only
  (repeat' split) <;> first | rfl | (simp; done)

@[simp] theorem still_setS (s : State) (n : Nat) (v : Src) : (State.setS s n v).still = s.still := by
  unfold State.setS
  try dsimp only
  (repeat' split) <;> first | rfl | (simp; done)

@[simp] theorem still_modS (s : State) (n : Nat) (f : Src → Src) : (State.modS s n f).still = s.still := by
  unfold State.modS
  try dsimp only
  (repeat' split) <;> first | rfl | (simp; done)

@[simp] theorem still_setF (s : State) (f : Flight) : (State.setF s f).still = s.still := by
  unfold State.setF
  try dsimp only
  (repeat' split) <;> first | rfl | (simp; done)

@[simp] theorem still_dropF (s : State) (id : Nat) : (State.dropF s id).still = s.still := by
  unfold State.dropF
  try dsimp only
  (repeat' split) <;> first | rfl | (simp; done)

@[simp] theorem still_addF (s : State) (f : Flight) : (State.addF s f).still = s.still := by
  unfold State.addF
  try dsimp only
  (repeat' split) <;> first | rfl | (simp; done)

@[simp] theorem still_freeBytes (s : State) (n : Nat) : (State.freeBytes s n).2.still = s.still := by
  unfold State.freeBytes
  try dsimp only
  (repeat' split) <;> first | rfl | (simp; done)

@[simp] theorem still_feDiscard (s : State) (p : FeUse → Bool) : (feDiscard s p).still = s.still := by
  unfold feDiscard
  try dsimp only
  (repeat' split) <;> first | rfl | (simp; done)

@[simp] theorem still_pulse (s : State) (n : Nat) : (pulse s n).still = s.still := by
  unfold pulse
  try dsimp only
  (repeat' split) <;> first | rfl | (simp; done)

@[simp] theorem still_pulseOwner (s : State) (q slot : Nat) : (pulseOwner s q slot).still = s.still := by
  unfold pulseOwner
  try dsimp only
  (repeat' split) <;> first | rfl | (simp; done)

@[simp] theorem still_stopLoad (s : State) (cause : Nat) : (stopLoad s cause).still = s.still := by
  unfold stopLoad
  try dsimp only
  (repeat' split) <;> first | rfl | (simp; done)

@[simp] theorem still_classD (s : State) : (classD s).still = s.still := by
  unfold classD
  try dsimp only
  (repeat' split) <;> first | rfl | (simp; done)

@[simp] theorem still_raise (s : State) (e : Ev) : (raise s e).still = s.still := by
  unfold raise
  try dsimp only
  (repeat' split) <;> first | rfl | (simp; done)

@[simp] theorem still_raiseAll (s : State) (evs : List Ev) : (raiseAll s evs).still = s.still := by
  unfold raiseAll
  try dsimp only
  (repeat' split) <;> first | rfl | (simp; done)

@[simp] theorem still_record (s : State) (e : Ev) : (record s e).still = s.still := by
  have h := classify_cfg s.flt s.tick.count.toNat e.src
  have h1 : State.still { s with flt := (classify s.flt s.tick.count.toNat e.src).unit } = s.still := by simp [h]
  unfold record; dsimp only; split
  · rfl
  · have h2 : State.still (if (classify s.flt s.tick.count.toNat e.src).k = 3 then
        classD { s with flt := (classify s.flt s.tick.count.toNat e.src).unit }
        else { s with flt := (classify s.flt s.tick.count.toNat e.src).unit }) = s.still := by split <;> simp [h1]
    split
    · rw [still_pulse]; exact h2
    · exact h2

@[simp] theorem still_fireWire (s : State) (w : Wake) : (fireWire s w).still = s.still := by
  unfold fireWire
  try dsimp only
  (repeat' split) <;> first | rfl | (simp; done)

@[simp] theorem still_fireOutputs (s : State) (t : Nat) : (fireOutputs s t).still = s.still := by
  unfold fireOutputs
  try dsimp only
  (repeat' split) <;> first | rfl | (simp; done)

@[simp] theorem still_addStray (s : State) (n : Nat) : (addStray s n).still = s.still := by
  unfold addStray
  try dsimp only
  (repeat' split) <;> first | rfl | (simp; done)

@[simp] theorem still_talNote (s : State) (t : Nat) (f : TalDo → TalDo) : (talNote s t f).still = s.still := by
  unfold talNote
  try dsimp only
  (repeat' split) <;> first | rfl | (simp; done)

@[simp] theorem still_arrive (s : State) (t : Nat) (k : Arr) (n : Nat) : (arrive s t k n).still = s.still := by
  unfold arrive
  try dsimp only
  (repeat' split) <;> first | rfl | (simp; done)

@[simp] theorem still_talStep (s : State) (t : Nat) (x : TalDo) : (talStep s t x).still = s.still := by
  unfold talStep
  try dsimp only
  (repeat' split) <;> first | rfl | (simp; done)

@[simp] theorem still_talPass (s : State) : (talPass s).still = s.still := by
  unfold talPass
  try dsimp only
  (repeat' split) <;> first | rfl | (simp; done)

@[simp] theorem still_mapTouch (s : State) (b : Nat) (e : MapEnt) : (mapTouch s b e).still = s.still := by
  unfold mapTouch
  try dsimp only
  (repeat' split) <;> first | rfl | (simp; done)

@[simp] theorem still_mapEnter (s : State) (b : Nat) (e : MapEnt) : (mapEnter s b e).still = s.still := by
  unfold mapEnter
  try dsimp only
  (repeat' split) <;> first | rfl | (simp; done)

@[simp] theorem still_touchPages (s : State) (b : Nat) (ps : List Piece) : (touchPages s b ps).still = s.still := by
  unfold touchPages
  try dsimp only
  repeat' first | rfl | (simp; done) | refine (still_each _ _ (fun s a => ?_) _).trans ?_ | split

@[simp] theorem still_lineTouch (s : State) (l : Line) : (lineTouch s l).still = s.still := by
  unfold lineTouch
  try dsimp only
  (repeat' split) <;> first | rfl | (simp; done)

@[simp] theorem still_lineAlloc (s : State) (l : Line) : (lineAlloc s l).still = s.still := by
  unfold lineAlloc
  try dsimp only
  (repeat' split) <;> first | rfl | (simp; done)

@[simp] theorem still_granWrite (s : State) (pa : Nat) (data : List Byte) (psn : BitVec 5) : (granWrite s pa data psn).still = s.still := by
  unfold granWrite
  try dsimp only
  (repeat' split) <;> first | rfl | (simp; done)

@[simp] theorem still_granInvalidate (s : State) : (granInvalidate s).still = s.still := by
  unfold granInvalidate
  try dsimp only
  (repeat' split) <;> first | rfl | (simp; done)

@[simp] theorem still_granInvalidateOwner (s : State) (q : Nat) : (granInvalidateOwner s q).still = s.still := by
  unfold granInvalidateOwner
  try dsimp only
  (repeat' split) <;> first | rfl | (simp; done)

@[simp] theorem still_granDropHit (s : State) (pa len : Nat) : (granDropHit s pa len).still = s.still := by
  unfold granDropHit
  try dsimp only
  (repeat' split) <;> first | rfl | (simp; done)

@[simp] theorem still_invAnswered (s : State) (read : Bool) (b tag : Nat) : (invAnswered s read b tag).still = s.still := by
  unfold invAnswered
  try dsimp only
  (repeat' split) <;> first | rfl | (simp; done)

@[simp] theorem still_landPart (s : State) (x : Read) (off : Nat) (data : List Byte) (psn : BitVec 5) (err : Bool) : (landPart s x off data psn err).still = s.still := by
  unfold landPart
  try dsimp only
  (repeat' split) <;> first | rfl | (simp; done)

@[simp] theorem still_landLock (s : State) (x : Read) (data : List Byte) : (landLock s x data).still = s.still := by
  unfold landLock
  try dsimp only
  (repeat' split) <;> first | rfl | (simp; done)

@[simp] theorem still_readOver (s : State) (x : Read) : (readOver s x).still = s.still := by
  unfold readOver
  try dsimp only
  (repeat' split) <;> first | rfl | (simp; done)

@[simp] theorem still_takeLock (s : State) (x : Read) : (takeLock s x).still = s.still := by
  unfold takeLock
  try dsimp only
  (repeat' split) <;> first | rfl | (simp; done)

@[simp] theorem still_readGrant (s : State) (id i : Nat) : (readGrant s id i).still = s.still := by
  unfold readGrant
  try dsimp only
  (repeat' split) <;> first | rfl | (simp; done)

@[simp] theorem still_startFill (s : State) (slice owner : Nat) (lock : Bool) (line : Nat) : (startFill s slice owner lock line).still = s.still := by
  unfold startFill
  try dsimp only
  (repeat' split) <;> first | rfl | (simp; done)

@[simp] theorem still_landHit (s : State) (slice : Nat) (x : Read) (lpa : Nat) (p : Nat × Nat × Nat × Nat) : (landHit s slice x lpa p).still = s.still := by
  unfold landHit
  try dsimp only
  (repeat' split) <;> first | rfl | (simp; done)

@[simp] theorem still_stackRead (s : State) (slice lpa : Nat) (x : Read) : (stackRead s slice lpa x).still = s.still := by
  unfold stackRead
  try dsimp only
  (repeat' split) <;> first | rfl | (simp; done)

@[simp] theorem still_dropLock (s : State) (x : Write) : (dropLock s x).still = s.still := by
  unfold dropLock
  try dsimp only
  (repeat' split) <;> first | rfl | (simp; done)

@[simp] theorem still_writeGrant (s : State) (id i : Nat) : (writeGrant s id i).still = s.still := by
  unfold writeGrant
  try dsimp only
  (repeat' split) <;> first | rfl | (simp; done)

@[simp] theorem still_stackWrite (s : State) (slice lpa : Nat) (x : Write) : (stackWrite s slice lpa x).still = s.still := by
  unfold stackWrite
  try dsimp only
  (repeat' split) <;> first | rfl | (simp; done)

@[simp] theorem still_writeOver (s : State) (x : Write) : (writeOver s x).still = s.still := by
  unfold writeOver
  try dsimp only
  (repeat' split) <;> first | rfl | (simp; done)

@[simp] theorem still_readRound (s : State) (b k : Nat) : (readRound s b k).still = s.still := by
  unfold readRound
  try dsimp only
  repeat' first | rfl | (simp; done) | refine (still_each _ _ (fun s a => ?_) _).trans ?_ | split

@[simp] theorem still_writeRound (s : State) (b k : Nat) : (writeRound s b k).still = s.still := by
  unfold writeRound
  try dsimp only
  repeat' first | rfl | (simp; done) | refine (still_each _ _ (fun s a => ?_) _).trans ?_ | split

theorem still_freeGrants (ask : State → Flight → Nat → Bool) (grant : State → Nat → Nat → State) (ps : List (Nat × Nat))
    (h : ∀ s a b, (grant s a b).still = s.still) (n : Nat) : ∀ s : State, (freeGrants ask grant ps n s).1.still = s.still := by
  induction n with
  | zero => intro s; rfl
  | succ n ih =>
    intro s; unfold freeGrants; split
    · rw [ih]; exact h _ _ _
    · rfl

@[simp] theorem still_issueRounds (s : State) (b : Nat) : (issueRounds s b).still = s.still := by
  unfold issueRounds; dsimp only; split
  · rfl
  · rw [still_writeRound, still_freeGrants _ _ _ still_writeGrant, still_readRound, still_freeGrants _ _ _ still_readGrant]

@[simp] theorem still_stackRound (s : State) (slice : Nat) : (stackRound s slice).still = s.still := by
  unfold stackRound; dsimp only
  refine (still_each _ _ (fun s a => ?_) _).trans ?_
  · split <;> simp
  · refine (still_each _ _ (fun s a => ?_) _).trans ?_
    · split <;> simp
    · split <;> rfl

@[simp] theorem still_issuePass (s : State) : (issuePass s).still = s.still := by
  have h (s : State) (l : List Nat) : (each s l issueRounds).still = s.still := still_each _ _ still_issueRounds _
  have k (s : State) (l : List Nat) : (each s l stackRound).still = s.still := still_each _ _ still_stackRound _
  unfold issuePass; dsimp only; split
  · exact h _ _
  · rw [k, k, h]

@[simp] theorem still_writeBacks (s : State) : (writeBacks s).still = s.still := by
  refine still_each _ _ (fun s l => ?_) _
  dsimp only
  (repeat' split) <;> first | rfl | exact still_granWrite _ _ _ _

@[simp] theorem still_withdrawPart (s : State) (id i : Nat) : (withdrawPart s id i).still = s.still := by
  unfold withdrawPart
  try dsimp only
  (repeat' split) <;> first | rfl | (simp; done)

@[simp] theorem still_cancelXfer (s : State) (always : Bool) (x : Xfer) : (cancelXfer s always x).still = s.still := by
  unfold cancelXfer
  try dsimp only
  (repeat' split) <;> first | rfl | (simp; done)

@[simp] theorem still_sendResp (s : State) (n xid status : Nat) : (sendResp s n xid status).still = s.still := by
  unfold sendResp
  try dsimp only
  (repeat' split) <;> first | rfl | (simp; done)

theorem still_feTryD (s : State) (use : FeUse) (we : Bool) (addr len : Nat) : ((feTry s use we addr len).getD s).still = s.still := by
  unfold feTry
  try dsimp only
  (repeat' split) <;> first | rfl | (simp; done)

theorem still_feTry (s t : State) (use : FeUse) (we : Bool) (addr len : Nat) (h : feTry s use we addr len = some t) : t.still = s.still := by
  have := still_feTryD s use we addr len; rwa [h] at this

@[simp] theorem still_settle (s : State) (q : Nat) : (settle s q).still = s.still := by
  unfold settle
  try dsimp only
  (repeat' split) <;> first | rfl | (simp; done)

@[simp] theorem still_retire (s : State) (q pos : Nat) : (retire s q pos).still = s.still := by
  unfold retire
  try dsimp only
  (repeat' split) <;> first | rfl | (simp; done)

@[simp] theorem still_dispatchRetire (s : State) (q : Nat) (x : Slot) : (dispatchRetire s q x).still = s.still := by
  unfold dispatchRetire
  try dsimp only
  (repeat' split) <;> first | rfl | (simp; done)

@[simp] theorem still_dropWaiting (s : State) (q pos : Nat) : (dropWaiting s q pos).still = s.still := by
  unfold dropWaiting
  try dsimp only
  (repeat' split) <;> first | rfl | (simp; done)

@[simp] theorem still_discard (s : State) (q : Nat) (p pf : Nat → Bool) : (discard s q p pf).still = s.still := by
  unfold discard
  try dsimp only
  (repeat' split) <;> first | rfl | (simp; done)

@[simp] theorem still_discardAll (s : State) (q : Nat) : (discardAll s q).still = s.still := by
  unfold discardAll
  try dsimp only
  (repeat' split) <;> first | rfl | (simp; done)

@[simp] theorem still_queueError (s : State) (q pos cause off : Nat) : (queueError s q pos cause off).still = s.still := by
  unfold queueError
  try dsimp only
  (repeat' split) <;> first | rfl | (simp; done)

@[simp] theorem still_wakeBay (s : State) (b : Nat) : (wakeBay s b).still = s.still := by
  unfold wakeBay
  try dsimp only
  (repeat' split) <;> first | rfl | (simp; done)

@[simp] theorem still_missDeadline (s : State) (q : Nat) (x : Slot) : (missDeadline s q x).still = s.still := by
  unfold missDeadline
  try dsimp only
  (repeat' split) <;> first | rfl | (simp; done)

@[simp] theorem still_linkGood (s : State) (q : Nat) (x : Slot) : (linkGood s q x).still = s.still := by
  unfold linkGood
  try dsimp only
  (repeat' split) <;> first | rfl | (simp; done)

@[simp] theorem still_checkSlot (s : State) (q pos : Nat) : (checkSlot s q pos).still = s.still := by
  unfold checkSlot
  try dsimp only
  (repeat' split) <;> first | rfl | (simp; done)

@[simp] theorem still_recheck (s : State) (q : Nat) : (recheck s q).still = s.still := by
  unfold recheck
  try dsimp only
  (repeat' split) <;> first | rfl | (simp; done)

@[simp] theorem still_recheckAll (s : State) : (recheckAll s).still = s.still := by
  unfold recheckAll
  try dsimp only
  (repeat' split) <;> first | rfl | (simp; done)

@[simp] theorem still_takeEntry (s : State) (q pos addr raw : Nat) (pushed : Bool) : (takeEntry s q pos addr raw pushed).still = s.still := by
  unfold takeEntry
  try dsimp only
  (repeat' split) <;> first | rfl | (simp; done)

@[simp] theorem still_recordFaults (s : State) (id : Nat) : (recordFaults s id).still = s.still := by
  unfold recordFaults
  try dsimp only
  (repeat' split) <;> first | rfl | (simp; done)

@[simp] theorem still_recordCuts (s : State) (evs : List Ev) : (recordCuts s evs).still = s.still := by
  unfold recordCuts
  try dsimp only
  (repeat' split) <;> first | rfl | (simp; done)

@[simp] theorem still_releasePart (s : State) (p : Part) : (releasePart s p).still = s.still := by
  unfold releasePart
  try dsimp only
  (repeat' split) <;> first | rfl | (simp; done)

@[simp] theorem still_endParts (s : State) (id : Nat) : (endParts s id).still = s.still := by
  unfold endParts
  try dsimp only
  (repeat' split) <;> first | rfl | (simp; done)

@[simp] theorem still_flightStep (s : State) (id : Nat) : (flightStep s id).still = s.still := by
  unfold flightStep
  try dsimp only
  (repeat' split) <;> first | rfl | (simp; done)

@[simp] theorem still_releaseLocks (s : State) (f : Flight) (b : Nat) : (releaseLocks s f b).still = s.still := by
  unfold releaseLocks
  try dsimp only
  (repeat' split) <;> first | rfl | (simp; done)

@[simp] theorem still_cutPart (s : State) (id i : Nat) : (cutPart s id i).still = s.still := by
  unfold cutPart
  try dsimp only
  (repeat' split) <;> first | rfl | (simp; done)

@[simp] theorem still_abortFlight (s : State) (id : Nat) (cancel : Bool) : (abortFlight s id cancel).still = s.still := by
  unfold abortFlight
  try dsimp only
  (repeat' split) <;> first | rfl | (simp; done)

@[simp] theorem still_abortAll (s : State) (q : Nat) (cancel : Bool) : (abortAll s q cancel).still = s.still := by
  unfold abortAll
  try dsimp only
  (repeat' split) <;> first | rfl | (simp; done)

@[simp] theorem still_abortQueue (s : State) (q : Nat) (cancel : Bool) : (abortQueue s q cancel).still = s.still := by
  unfold abortQueue
  try dsimp only
  (repeat' split) <;> first | rfl | (simp; done)

@[simp] theorem still_readIndex (s : State) (q : Nat) : (readIndex s q).still = s.still := by
  unfold readIndex
  try dsimp only
  (repeat' split) <;> first | rfl | (simp; done)

@[simp] theorem still_listDone (s : State) (f : Flight) : (listDone s f).still = s.still := by
  unfold listDone
  try dsimp only
  (repeat' split) <;> first | rfl | (simp; done)

@[simp] theorem still_pump (s : State) (id : Nat) : (pump s id).still = s.still := by
  unfold pump
  try dsimp only
  (repeat' split) <;> first | rfl | (simp; done)

@[simp] theorem still_pumpAll (s : State) : (pumpAll s).still = s.still := by
  unfold pumpAll
  try dsimp only
  (repeat' split) <;> first | rfl | (simp; done)

@[simp] theorem still_requestDone (s : State) (x : Read) : (requestDone s x).still = s.still := by
  unfold requestDone
  try dsimp only
  (repeat' split) <;> first | rfl | (simp; done)

@[simp] theorem still_clearBegins (s : State) (b : Nat) : (clearBegins s b).still = s.still := by
  unfold clearBegins
  try dsimp only
  (repeat' split) <;> first | rfl | (simp; done)

@[simp] theorem still_fillDone (s : State) (x : Fill) : (fillDone s x).still = s.still := by
  unfold fillDone
  try dsimp only
  (repeat' split) <;> first | rfl | (simp; done)

@[simp] theorem still_landBeat (s : State) (z : Read) (w : Nat × Nat × Nat) (r : Resp) : (landBeat s z w r).still = s.still := by
  unfold landBeat
  try dsimp only
  (repeat' split) <;> first | rfl | (simp; done)

@[simp] theorem still_invalidate (s : State) (itag : Option Nat) (rng : InvRange) : (invalidate s itag rng).still = s.still := by
  unfold invalidate
  try dsimp only
  (repeat' split) <;> first | rfl | (simp; done)

@[simp] theorem still_placeParts (id loft n : Nat) : ∀ s : State, (placeParts s id loft n).still = s.still := by
  induction n with
  | zero => intro s; rfl
  | succ n ih =>
    intro s; unfold placeParts; split
    · rfl
    · split
      · rfl
      · rw [ih]; simp

@[simp] theorem still_placeEntry (s : State) (q pos n : Nat) (todo : List RdReq) : (placeEntry s q pos n todo).still = s.still := by
  unfold placeEntry
  try dsimp only
  (repeat' split) <;> first | rfl | (simp; done)

@[simp] theorem still_freeWrite (s : State) (p : Nat → Bool) (w : WrReq) : (freeWrite s p w).1.still = s.still := by
  unfold freeWrite
  try dsimp only
  (repeat' split) <;> first | rfl | (simp; done)

@[simp] theorem still_freeWrites (p : Nat → Bool) (l : List WrReq) : ∀ s : State, (freeWrites s p l).1.still = s.still := by
  induction l with
  | nil => intro s; rfl
  | cons w r ih => intro s; simp [freeWrites, ih]

@[simp] theorem still_overlapFree (s : State) (reads scales record : List (Nat × Nat)) (ws : List WrReq) : (overlapFree s reads scales record ws).1.still = s.still := by
  unfold overlapFree
  try dsimp only
  (repeat' split) <;> first | rfl | (simp; done)

@[simp] theorem still_produce (s : State) (id : Nat) (m : Made) (part : Nat → Nat) (d : Shape) (w : Nat) (ws : List WrReq) (reads scales : List (Nat × Nat)) : (produce s id m part d w ws reads scales).still = s.still := by
  unfold produce
  try dsimp only
  (repeat' split) <;> first | rfl | (simp; done)

@[simp] theorem still_contractNotes (st : State) (f : Flight) (s : Shape) (t : Terms) (shs : List Share) (os : List Output) : (contractNotes st f s t shs os).still = st.still := by
  unfold contractNotes
  try dsimp only
  (repeat' split) <;> first | rfl | (simp; done)

@[simp] theorem still_indexNote (st : State) (f : Flight) (side : Shape) (l : List (Nat × Nat × Idx)) : (indexNote st f side l).still = st.still := by
  unfold indexNote
  try dsimp only
  (repeat' split) <;> first | rfl | (simp; done)

@[simp] theorem still_produceWalk (s : State) (f : Flight) (k : Cut) (m : Made) (reads scales : List (Nat × Nat)) : (produceWalk s f k m reads scales).still = s.still := by
  unfold produceWalk
  try dsimp only
  (repeat' split) <;> first | rfl | (simp; done)

@[simp] theorem still_addWrite (s : State) (f : Flight) (ix : List Idx) (n a : Nat) : (addWrite s f ix n a).still = s.still := by
  unfold addWrite
  try dsimp only
  (repeat' split) <;> first | rfl | (simp; done)

@[simp] theorem still_addStep (s : State) (f : Flight) : (addStep s f).still = s.still := by
  unfold addStep
  try dsimp only
  (repeat' split) <;> first | rfl | (simp; done)

@[simp] theorem still_cutByLink (s : State) (id : Nat) : (cutByLink s id).still = s.still := by
  unfold cutByLink
  try dsimp only
  (repeat' split) <;> first | rfl | (simp; done)

@[simp] theorem still_endAtOnce (s : State) (q pos : Nat) (cut bad : Bool) : (endAtOnce s q pos cut bad).still = s.still := by
  unfold endAtOnce
  try dsimp only
  (repeat' split) <;> first | rfl | (simp; done)

@[simp] theorem still_notUpNote (s : State) (q pos port sub : Nat) : (notUpNote s q pos port sub).still = s.still := by
  unfold notUpNote
  try dsimp only
  (repeat' split) <;> first | rfl | (simp; done)

@[simp] theorem still_mcastDown (s : State) (q pos : Nat) (rs : List Rcv) : (mcastDown s q pos rs).still = s.still := by
  unfold mcastDown
  try dsimp only
  (repeat' split) <;> first | rfl | (simp; done)

@[simp] theorem still_setBin (s : State) (b : Bin) : (setBin s b).still = s.still := by
  unfold setBin
  try dsimp only
  (repeat' split) <;> first | rfl | (simp; done)

theorem still_grantSlices (n : Nat) : ∀ (s t : State) (l : List Nat), grantSlices s n = some (t, l) → t.still = s.still := by
  induction n with
  | zero => intro s t l h; simp only [grantSlices, Option.some.injEq, Prod.mk.injEq] at h; rw [h.1]
  | succ n ih =>
    intro s t l h
    unfold grantSlices at h; split at h
    · cases h
    · split at h
      · cases h
      · simp only [Option.some.injEq, Prod.mk.injEq] at h
        rw [← h.1, ih _ _ _ ‹_›]; simp

theorem still_openBin (s t : State) (b : Bin) (h : openBin s b = some t) : t.still = s.still := by
  unfold openBin at h; dsimp only at h; split at h
  · cases h
  · split at h
    · cases h
    · have k := still_grantSlices _ _ _ _ ‹_›
      simp only [Option.some.injEq] at h
      rw [← h, ← k]; rfl

@[simp] theorem still_dropBin (s : State) (rid : Nat) : (dropBin s rid).still = s.still := by
  unfold dropBin
  try dsimp only
  (repeat' split) <;> first | rfl | (simp; done)

@[simp] theorem still_closeBin (s : State) (rid : Nat) : (closeBin s rid).still = s.still := by
  unfold closeBin
  try dsimp only
  (repeat' split) <;> first | rfl | (simp; done)

@[simp] theorem still_abandonBins (s : State) (bs : List Bin) (evs : List Ev) : (abandonBins s bs evs).still = s.still := by
  unfold abandonBins
  try dsimp only
  (repeat' split) <;> first | rfl | (simp; done)

@[simp] theorem still_cutContribs (l : List Contrib) : ∀ s : State, (cutContribs s l).1.still = s.still := by
  induction l with
  | nil => intro s; rfl
  | cons c r ih =>
    intro s; unfold cutContribs; dsimp only; split
    · split
      · rw [ih]; rfl
      · dsimp only; rw [ih, still_closeBin]; rfl
    · rw [ih]; rfl

@[simp] theorem still_cutContrib (s : State) (c : Contrib) (evs : List Ev) : (cutContrib s c evs).still = s.still := by
  unfold cutContrib
  try dsimp only
  (repeat' split) <;> first | rfl | (simp; done)

@[simp] theorem still_mismatchNote (s : State) (unit : Nat) (inst : Option (Nat × Nat)) (rid chip : Nat) : (mismatchNote s unit inst rid chip).still = s.still := by
  unfold mismatchNote
  try dsimp only
  (repeat' split) <;> first | rfl | (simp; done)

@[simp] theorem still_mismatch (s : State) (n xid rid chip : Nat) : (mismatch s n xid rid chip).still = s.still := by
  unfold mismatch
  try dsimp only
  (repeat' split) <;> first | rfl | (simp; done)

@[simp] theorem still_rejectLocal (s : State) (f : Flight) : (rejectLocal s f).still = s.still := by
  unfold rejectLocal
  try dsimp only
  (repeat' split) <;> first | rfl | (simp; done)

@[simp] theorem still_freeWritten (s : State) (rid : Nat) : (freeWritten s rid).still = s.still := by
  unfold freeWritten
  try dsimp only
  (repeat' split) <;> first | rfl | (simp; done)

@[simp] theorem still_homeEnded (s : State) (id : Nat) : (homeEnded s id).still = s.still := by
  unfold homeEnded
  try dsimp only
  (repeat' split) <;> first | rfl | (simp; done)

@[simp] theorem still_endRx (s : State) (f : Flight) : (endRx s f).still = s.still := by
  unfold endRx
  try dsimp only
  (repeat' split) <;> first | rfl | (simp; done)

@[simp] theorem still_mcastStop (s : State) (id : Nat) : (mcastStop s id).still = s.still := by
  unfold mcastStop
  try dsimp only
  (repeat' split) <;> first | rfl | (simp; done)

@[simp] theorem still_heldAbandoned (s : State) (held : List Flit) : (heldAbandoned s held).still = s.still := by
  unfold heldAbandoned
  try dsimp only
  repeat' first | rfl | (simp; done) | refine (still_each _ _ (fun s a => ?_) _).trans ?_ | split

@[simp] theorem still_portCut (s : State) (n : Nat) (held : List Flit) (evs : List Ev) : (portCut s n held evs).still = s.still := by
  unfold portCut; dsimp only
  rw [still_recordCuts, still_cutContribs]
  refine (still_each _ _ ?_ _).trans ?_
  · intro s f; split <;> simp
  · rw [still_each _ _ (fun s (f : Flight) => still_cutByLink s f.id), still_each _ _ still_endRx, still_heldAbandoned]

@[simp] theorem still_rxData (s : State) (id : Nat) (f : Flit) : (rxData s id f).still = s.still := by
  unfold rxData
  try dsimp only
  (repeat' split) <;> first | rfl | (simp; done)

@[simp] theorem still_startRx (s : State) (n b : Nat) (f : Flit) : (startRx s n b f).still = s.still := by
  unfold startRx
  try dsimp only
  (repeat' split) <;> first | rfl | (simp; done)

@[simp] theorem still_freeSlots (s : State) (n vc k : Nat) : (freeSlots s n vc k).still = s.still := by
  unfold freeSlots
  try dsimp only
  (repeat' split) <;> first | rfl | (simp; done)

@[simp] theorem still_freeHeld (s : State) (n : Nat) (l : List Flit) : (freeHeld s n l).still = s.still := by
  unfold freeHeld
  try dsimp only
  (repeat' split) <;> first | rfl | (simp; done)

@[simp] theorem still_serveFlit (n b : Nat) (s : State) (f : Flit) : (serveFlit n b s f).still = s.still := by
  unfold serveFlit
  try dsimp only
  (repeat' split) <;> first | rfl | (simp; done)

@[simp] theorem still_serveHeldAt (s : State) (n b : Nat) : (serveHeldAt s n b).still = s.still := by
  unfold serveHeldAt
  try dsimp only
  (repeat' split) <;> first | rfl | (simp; done)

@[simp] theorem still_serveHeld (s : State) (b : Nat) : (serveHeld s b).still = s.still := by
  unfold serveHeld
  try dsimp only
  (repeat' split) <;> first | rfl | (simp; done)

@[simp] theorem still_mcStallPass (s : State) : (mcStallPass s).still = s.still := by
  unfold mcStallPass
  try dsimp only
  (repeat' split) <;> first | rfl | (simp; done)

@[simp] theorem still_openWith (s : State) (n vc idx firstAt : Nat) (payload : List Byte) (data : Nat → List Flit) : (openWith s n vc idx firstAt payload data).1.still = s.still := by
  unfold openWith
  try dsimp only
  (repeat' split) <;> first | rfl | (simp; done)

@[simp] theorem still_openXfer (s : State) (n vc idx firstAt w : Nat) (payload : List Byte) (es : List Elem) : (openXfer s n vc idx firstAt w payload es).1.still = s.still := by
  unfold openXfer
  try dsimp only
  (repeat' split) <;> first | rfl | (simp; done)

@[simp] theorem still_portDown (s : State) (n : Nat) : (portDown s n).still = s.still := by
  unfold portDown
  try dsimp only
  (repeat' split) <;> first | rfl | (simp; done)

@[simp] theorem still_writeLnkCtrl (s : State) (n : Nat) (v : Word) : (writeLnkCtrl s n v).still = s.still := by
  unfold writeLnkCtrl
  try dsimp only
  (repeat' split) <;> first | rfl | (simp; done)

@[simp] theorem still_fencePort (s : State) (n cause src : Nat) : (fencePort s n cause src).still = s.still := by
  unfold fencePort
  try dsimp only
  (repeat' split) <;> first | rfl | (simp; done)

@[simp] theorem still_abandonXfer (s : State) (n xid : Nat) : (abandonXfer s n xid).still = s.still := by
  unfold abandonXfer
  try dsimp only
  (repeat' split) <;> first | rfl | (simp; done)

@[simp] theorem still_placeSend (s : State) (q pos : Nat) (e : Nat) : (placeSend s q pos e).still = s.still := by
  unfold placeSend
  try dsimp only
  (repeat' split) <;> first | rfl | (simp; done)

@[simp] theorem still_sendRemote (s : State) (f : Flight) (n firstAt : Nat) : (sendRemote s f n firstAt).still = s.still := by
  unfold sendRemote
  try dsimp only
  (repeat' split) <;> first | rfl | (simp; done)

@[simp] theorem still_joinSend (s : State) (f : Flight) : (joinSend s f).still = s.still := by
  unfold joinSend; dsimp only
  split
  · split <;> simp
  · split
    · rw [still_setF]; exact still_openBin _ _ _ ‹_›
    · split <;> simp

@[simp] theorem still_enterSend (s : State) (f : Flight) : (enterSend s f).still = s.still := by
  unfold enterSend
  try dsimp only
  (repeat' split) <;> first | rfl | (simp; done)

@[simp] theorem still_localSend (s : State) (f : Flight) : (localSend s f).still = s.still := by
  unfold localSend
  try dsimp only
  (repeat' split) <;> first | rfl | (simp; done)

@[simp] theorem still_joinHome (s : State) (f : Flight) : (joinHome s f).still = s.still := by
  unfold joinHome; dsimp only
  split
  · generalize (if eHomeSrc f.raw then some (redMark f.raw) else none) = m
    split <;> simp
  · split
    · rw [still_setF]; exact still_openBin _ _ _ ‹_›
    · rfl

@[simp] theorem still_enterHome (s : State) (f : Flight) : (enterHome s f).still = s.still := by
  unfold enterHome
  try dsimp only
  (repeat' split) <;> first | rfl | (simp; done)

@[simp] theorem still_freeElems (s : State) (w : Nat) (es : List Elem) : (freeElems s w es).1.still = s.still := by
  unfold freeElems
  try dsimp only
  (repeat' split) <;> first | rfl | (simp; done)

@[simp] theorem still_openRcv (s : State) (f : Flight) (r : Rcv) : (openRcv s f r).1.still = s.still := by
  unfold openRcv
  try dsimp only
  (repeat' split) <;> first | rfl | (simp; done)

@[simp] theorem still_openRcvs (f : Flight) (l : List Rcv) : ∀ s : State, (openRcvs s f l).1.still = s.still := by
  induction l with
  | nil => intro s; rfl
  | cons r rest ih => intro s; simp [openRcvs, ih]

@[simp] theorem still_feedRcv (s : State) (f : Flight) (clash : Bool) (es : List Elem) (a : Nat) (x : Xfer) : (feedRcv s f clash es a x).1.still = s.still := by
  unfold feedRcv
  try dsimp only
  (repeat' split) <;> first | rfl | (simp; done)

@[simp] theorem still_feedRcvs (f : Flight) (clash : Bool) (es : List Elem) (a : Nat) (l : List Xfer) :
    ∀ s : State, (feedRcvs s f clash es a l).1.still = s.still := by
  induction l with
  | nil => intro s; rfl
  | cons r rest ih => intro s; simp [feedRcvs, ih]

@[simp] theorem still_mcastOpen (s : State) (f : Flight) : (mcastOpen s f).1.still = s.still := by
  unfold mcastOpen
  try dsimp only
  (repeat' split) <;> first | rfl | (simp; done)

@[simp] theorem still_mcastFeed (s : State) (f : Flight) : (mcastFeed s f).still = s.still := by
  unfold mcastFeed
  try dsimp only
  (repeat' split) <;> first | rfl | (simp; done)

@[simp] theorem still_hear (s : State) (n : Nat) (f : Flit) : (hear s n f).still = s.still := by
  unfold hear
  try dsimp only
  (repeat' split) <;> first | rfl | (simp; done)

@[simp] theorem still_misroute (s : State) (n : Nat) (f : Flit) : (misroute s n f).still = s.still := by
  unfold misroute
  try dsimp only
  (repeat' split) <;> first | rfl | (simp; done)

@[simp] theorem still_wakeSleeper (s : State) : (wakeSleeper s).still = s.still := by
  unfold wakeSleeper
  try dsimp only
  (repeat' split) <;> first | rfl | (simp; done)

@[simp] theorem still_openReduce (s : State) (n : Nat) (f : Flit) : (openReduce s n f).still = s.still := by
  unfold openReduce
  try dsimp only
  (repeat' split) <;> first | rfl | (simp; done) | (have k := still_openBin _ _ _ ‹_›; simp [k])

@[simp] theorem still_enterContrib (s : State) (c : Contrib) : (enterContrib s c).still = s.still := by
  unfold enterContrib
  try dsimp only
  (repeat' split) <;> first | rfl | (simp; done)

@[simp] theorem still_contribData (s : State) (c : Contrib) (f : Flit) : (contribData s c f).still = s.still := by
  unfold contribData
  try dsimp only
  (repeat' split) <;> first | rfl | (simp; done)

@[simp] theorem still_refuseEnable (s : State) (q : Nat) : (refuseEnable s q).still = s.still := by
  unfold refuseEnable
  try dsimp only
  (repeat' split) <;> first | rfl | (simp; done)

@[simp] theorem still_headWriteDone (s : State) (q : Nat) (failed : Bool) : (headWriteDone s q failed).still = s.still := by
  have h (s : State) (u : FeUse) : (feDone s u).still = s.still := rfl
  unfold headWriteDone; dsimp only
  (repeat' split) <;> simp [h]

@[simp] theorem still_readPass (s : State) (q : Nat) : (readPass s q).still = s.still := by
  unfold readPass; dsimp only
  (repeat' split) <;> first | rfl | (simp; done) | (rw [still_setQ]; exact still_feTry _ _ _ _ _ _ ‹_›)

@[simp] theorem still_keepOffer (s : State) (n : Nat) : (keepOffer s n).still = s.still := by
  unfold keepOffer
  try dsimp only
  (repeat' split) <;> first | rfl | (simp; done)

@[simp] theorem still_clockUp (s : State) : (clockUp s).still = s.still := by
  unfold clockUp
  try dsimp only
  (repeat' split) <;> first | rfl | (simp; done)

@[simp] theorem still_setPend (s : State) (n : Nat) : (setPend s n).still = s.still := by
  unfold setPend
  try dsimp only
  (repeat' split) <;> first | rfl | (simp; done)

@[simp] theorem still_clrPend (s : State) (n : Nat) : (clrPend s n).still = s.still := by
  unfold clrPend
  try dsimp only
  (repeat' split) <;> first | rfl | (simp; done)

@[simp] theorem still_withdrawAll (s : State) : (withdrawAll s).still = s.still := by
  unfold withdrawAll
  try dsimp only
  (repeat' split) <;> first | rfl | (simp; done)

@[simp] theorem still_setSrcCfg (s : State) (n : Nat) (v : Word) : (setSrcCfg s n v).still = s.still := by
  unfold setSrcCfg
  try dsimp only
  (repeat' split) <;> first | rfl | (simp; done)

@[simp] theorem still_sigPass (s : State) : (sigPass s).still = s.still := by
  unfold sigPass
  try dsimp only
  (repeat' split) <;> first | rfl | (simp; done)

@[simp] theorem still_dropHeld (s : State) (n : Nat) : (dropHeld s n).still = s.still := by
  unfold dropHeld
  try dsimp only
  (repeat' split) <;> first | rfl | (simp; done)

@[simp] theorem still_faultPart (s : State) (id i : Nat) : (faultPart s id i).still = s.still := by
  unfold faultPart
  try dsimp only
  (repeat' split) <;> first | rfl | (simp; done)

@[simp] theorem still_dropReads (s : State) (b : Nat) : (dropReads s b).still = s.still := by
  unfold dropReads
  try dsimp only
  (repeat' split) <;> first | rfl | (simp; done)

@[simp] theorem still_poisonStaged (s : State) (f : Flight) (i k : Nat) : (poisonStaged s f i k).still = s.still := by
  unfold poisonStaged
  try dsimp only
  (repeat' split) <;> first | rfl | (simp; done)

@[simp] theorem still_poisonBin (s : State) (b : Bin) (i : Nat) : (poisonBin s b i).still = s.still := by
  unfold poisonBin
  try dsimp only
  (repeat' split) <;> first | rfl | (simp; done)

@[simp] theorem still_poisonFlight (s : State) (f : Flight) (word : Nat) : (poisonFlight s f word).still = s.still := by
  unfold poisonFlight
  try dsimp only
  (repeat' split) <;> first | rfl | (simp; done)

@[simp] theorem still_poisonBay (s : State) (loft : Bool) (bay i word : Nat) : (poisonBay s loft bay i word).still = s.still := by
  unfold poisonBay
  try dsimp only
  (repeat' split) <;> first | rfl | (simp; done)

@[simp] theorem still_poisonLine (s : State) (slice i k : Nat) : (poisonLine s slice i k).still = s.still := by
  unfold poisonLine
  try dsimp only
  (repeat' split) <;> first | rfl | (simp; done)

@[simp] theorem still_rtPass (s : State) : (rtPass s).still = s.still := by
  unfold rtPass
  try dsimp only
  (repeat' split) <;> first | rfl | (simp; done)

@[simp] theorem still_enterPwr (s : State) (b : Nat) (p : Pwr) : (enterPwr s b p).still = s.still := by
  unfold enterPwr
  try dsimp only
  (repeat' split) <;> first | rfl | (simp; done)

@[simp] theorem still_startPart (s : State) (b : Nat) (f : Flight) (i : Nat) : (startPart s b f i).still = s.still := by
  unfold startPart
  try dsimp only
  (repeat' split) <;> first | rfl | (simp; done)

@[simp] theorem still_dispatchPart (s : State) (b : Nat) (f : Flight) (i : Nat) : (dispatchPart s b f i).still = s.still := by
  unfold dispatchPart
  try dsimp only
  (repeat' split) <;> first | rfl | (simp; done)

@[simp] theorem still_deliverProgress (s : State) (id : Nat) : (deliverProgress s id).still = s.still := by
  unfold deliverProgress
  try dsimp only
  (repeat' split) <;> first | rfl | (simp; done)

@[simp] theorem still_addCounts (s : State) (f : Flight) : (addCounts s f).still = s.still := by
  unfold addCounts
  try dsimp only
  (repeat' split) <;> first | rfl | (simp; done)

@[simp] theorem still_closeEntry (s : State) (q pos : Nat) : (closeEntry s q pos).still = s.still := by
  unfold closeEntry
  try dsimp only
  (repeat' split) <;> first | rfl | (simp; done)

@[simp] theorem still_endArrive (s : State) (f : Flight) : (endArrive s f).still = s.still := by
  unfold endArrive
  try dsimp only
  (repeat' split) <;> first | rfl | (simp; done)

@[simp] theorem still_endPulse (s : State) (q : Nat) (k : Arr) : (endPulse s q k).still = s.still := by
  unfold endPulse
  try dsimp only
  (repeat' split) <;> first | rfl | (simp; done)

@[simp] theorem still_deliverCompletion (s : State) (f : Flight) : (deliverCompletion s f).still = s.still := by
  unfold deliverCompletion
  try dsimp only
  (repeat' split) <;> first | rfl | (simp; done)

end Sys2Proof.Machine
end

