-- ==== Sys2Proof/Tests/Slice0.lean ====
section
/-!
SUPPORT. Slice0.lean: the model's own tests. Effects of single steps are taken from the spec's rules and tables; the theorems
named witness_… show concrete states and operands that meet the hypotheses of the statement they are named after, clause by
clause; those named wf_… show an ill-formed term for each check of WellFormed.
-/
namespace Sys2Proof.Tests

open Sys2Proof Sys2Proof.Machine

set_option Elab.async false

/-! ### Small states -/

/-- A block in SERVICE, some time after reset. -/
def base : State := State.fresh { State.reset with eng := { state := .service, gHeld := false }, clk := { gclk := 10000000 } }

/-- The same in another engine state. -/
def inState (e : EngState) : State := State.fresh { base with eng := { state := e, gHeld := false } }

/-- The state of an answer. -/
def out (o : Out) : State := match o with | .next t => t | _ => base

/-- An entry of an opcode, with fields by their first bits. -/
def ent (op : Nat) (l : List (Nat × Nat)) : Nat := op * 2 ^ 16 + (l.map fun x => x.2 * 2 ^ x.1).sum

/-- Run and three counts of 1, as stored. -/
def ones : Nat := 1 + 2 ^ 20 + 2 ^ 40 + 2 ^ 60

/-- An entry with a source and a destination of one 8-bit element (format 4), at addresses 0x1000 and 0x2000. -/
def unit1 (op : Nat) (l : List (Nat × Nat)) : Nat :=
  ent op ([(42, 4), (47, 4), (64, 0x1000), (128, ones), (488, 0x2000), (552, ones)] ++ l)

/-- Queue 1, ENABLED, with one entry at position 0. -/
def withEntry (raw : Nat) : State :=
  base.setQ 1 { state := .enabled, k := 4, p := 1, f := 1, ringBase := 0x10000, headAddr := 0x10000, fetchAddr := 0x10080
                win := [{ pos := 0, addr := 0x10000, raw, st := .fetched, tick := 0, frontAt := some 0 }] }

/-- The entry that withEntry puts in front. -/
def frontSlot (raw : Nat) : Slot := { pos := 0, addr := 0x10000, raw, st := .fetched, tick := 0, frontAt := some 0 }
/-- The same with its instruction in flight on bay 0, with nothing left to read. -/
def inFlight (f : Flight) : State :=
  { base with nextId := 1, flights := [f], bay := [(0, { ctxs := [0], waits := [] })]
              qs := [(1, { state := .enabled, k := 4, p := 1, f := 1
                           win := [{ pos := 0, addr := 0, raw := f.raw, st := .dispatched, tick := 0 }] })] }

/-- A flight of queue 1, position 0, with one part in context 0 of bay 0. -/
def flight (raw : Nat) : Flight := { id := 0, q := 1, pos := 0, raw, parts := [{ bay := 0, ctx := some 0 }] }

/-! ### Effects the spec spells out -/

/-- Table 14.3: ENG_ID at reset. -/
theorem test_eng_id : (out (exec (.rcCounterRead 0 0 4) State.reset)).cs.data 0 = 0xB7040100#64 := by decide +kernel
/-- Table 14.3's example of ENG_CFG. -/
theorem test_eng_cfg : (out (exec (.rcCounterRead 0 4 4) State.reset)).cs.data 0 = 0xC1086040#64 := by decide +kernel
/-- An empty step is one GCLK. -/
theorem test_idle : (match step base with | .next t => t.clk.gclk | _ => 0) = 10000001 := by decide +kernel
/-- A step takes the command at the front. -/
theorem test_front :
    (match step { base with pending := [.tick, .freeze] } with | .next t => (t.tick.count, t.pending) | _ => (0#64, []))
      = (1#64, [Instr.freeze]) := by decide +kernel


/-- Rounding of a CAST with no random number. -/
def rne : Round := { rnd := 0, ovfInf := true }

/-- Example 3.1: r(0) for sr_seed 0. -/
theorem test_sr_random : srRandom 0 0 = 0xB6DB68A3 := by decide +kernel
/-- Example 3.1: 2.25 and 2.5 into e2m1 (format 7) under stochastic rounding. -/
theorem test_sr_cast :
    (convert 7 { rnd := 2, r := 0xB6DB68A3 } (valueOf 1 0x4080)).code = 4
    ∧ (convert 7 { rnd := 2, r := 0xB6DB68A3 } (valueOf 1 0x4100)).code = 5
    ∧ (convert 7 { rnd := 0 } (valueOf 1 0x4100)).code = 4 := by decide +kernel

/-- Example 3.2: eight binary32 values into e4m3 (format 3) and e2m1 (format 7), with their clips. -/
def block32 : List Nat := [0x3E99999A, 0x43E80000, 0x43EB0000, 0xBA83126F, 0x7FC00000, 0x7F800000, 0x80000000, 0x3F800000]
theorem test_cast_e4m3 :
    block32.map (fun c => (convert 3 rne (valueOf 0 c)).code) = [0x2A, 0x7E, 0x7E, 0x81, 0x7F, 0x7E, 0x80, 0x38]
    ∧ (block32.filter fun c => (convert 3 rne (valueOf 0 c)).clip).length = 3 := by decide +kernel
theorem test_cast_e2m1 :
    block32.map (fun c => (convert 7 rne (valueOf 0 c)).code) = [1, 7, 7, 8, 0, 7, 8, 2]
    ∧ block32.map (fun c => (convert 7 rne (valueOf 0 c)).gen) = [false, false, false, false, true, false, false, false] := by
  decide +kernel

/-- The codebook of Example 4.1, and its row of f16 values. -/
def cb37 : List Nat := [0xBC00, 0xBA00, 0xB880, 0xB700, 0xB500, 0xB200, 0xAC00, 0, 0x2C00, 0x3200, 0x3500, 0x3700, 0x3880, 0x3A00, 0x3B00, 0x3C00]
def row41 : List Elem := [0x4000, 0xBD00, 0x34CD, 0x0000, 0xC200, 0x3E00, 0x4200, 0xB800].map fun code => { code }
/-- Example 4.1: a PACK of f16 (1) into cb4 (14), under the no-clip rule (2) and the MX rule (1): codes, scale, clips. -/
theorem test_pack_noclip :
    let u := packUnit (ent 4 [(42, 1), (47, 14), (37, 2)]) cb37 0 row41
    (u.es.map (·.code), u.scale.code, u.clip) = ([12, 4, 8, 7, 1, 10, 13, 6], 0x81, 0) := by decide +kernel
theorem test_pack_mx :
    let u := packUnit (ent 4 [(42, 1), (47, 14), (37, 1)]) cb37 0 row41
    (u.es.map (·.code), u.scale.code, u.clip) = ([15, 2, 9, 7, 0, 13, 15, 4], 0x80, 2) := by decide +kernel

/-- Example 4.2: three rows of four f16 values into e2m1 under the no-clip rule: codes, scales, counts. -/
def rows42 : List Elem :=
  [0x3E00, 0x7E00, 0xC600, 0x3400, 0x0000, 0x8000, 0x0000, 0x0000, 0x7C00, 0x3A00, 0xBC00, 0x4100].map fun code => { code }
def dst42 : Shape := { base := 0, run := 4, cnt1 := 3, cnt2 := 1, cnt3 := 1, step1 := 2, step2 := 0, step3 := 0 }
theorem test_pack_specials :
    let m := packMade base (ent 4 [(42, 1), (47, 7), (37, 2)]) dst42 rows42
    (m.es.map (·.code), m.scales.map (·.1), m.elem, m.clip, m.degen, m.nonfin)
      = ([3, 0, 15, 0, 0, 0, 0, 0, 7, 3, 12, 6], [0x7F#8, 0x7F#8, 0x7E#8], 12, 1, 1, 2) := by decide +kernel
theorem test_pack_specials_mx :
    let m := packMade base (ent 4 [(42, 1), (47, 7), (37, 1)]) dst42 rows42
    (m.es.map (·.code), m.scales.map (·.1), m.clip, m.degen)
      = (List.replicate 12 0, [0xFF#8, 0x7F#8, 0xFF#8], 0, 1) := by decide +kernel

/-- Example 6.2: binary32 contributions (format 0) at acc_exp −30, into bf16 (2). -/
def enters (l : List Nat) : Acc := l.foldl (fun a c => enterElem (-30) 0 a { code := c }) {}
theorem test_accumulator :
    (enters [0xCB800000, 0x4B800000, 0x3F800000]).s = 0x40000000
    ∧ (accOut 2 false (-30) (enters [0x3E99999A, 0x3DCCCCCD, 0x3E4CCCCD])).code = 0x3F1A
    ∧ (accOut 2 false (-30) (enters [0x7F800000, 0x3F800000, 0x40000000])).code = 0x7F80
    ∧ (accOut 2 false (-30) (enters [0xB0000000, 0x30400000, 0x30400000])).code = 0x3100 := by decide +kernel

/-- Example 9.1: the entry of the embedding-bag CONTRACT, without its check word, byte by byte; and its fields. -/
def contract91 : Nat := leNat <|
  [0, 0, 0x09, 0x01, 0xA4, 0xB8, 0, 0] ++ [0, 0, 0, 0x80, 2, 0, 0, 0] ++ [0x20, 0, 0x30, 0, 0, 1, 0, 0x10, 0, 0]
  ++ [0x10, 0, 0, 0, 0] ++ List.replicate 10 0 ++ [0, 0, 0x10, 0, 2, 0, 0, 0] ++ [0, 0xA4, 2, 0] ++ [0x40, 0, 0x10, 0, 2, 0, 0, 0]
  ++ [0, 0x40, 0, 0, 1, 0, 0, 0] ++ [0x20, 0, 0x10, 0, 0, 1, 0, 0x10, 0, 0] ++ List.replicate 15 0 ++ [0xEC, 9, 0, 0]
  ++ List.replicate 4 0 ++ [0, 0, 0, 0xA0, 2, 0, 0, 0] ++ [0x40, 0x40, 0, 0, 1, 0, 0, 0] ++ [0x25, 0] ++ [0x2C, 0x41, 0, 0, 0, 0, 3, 0]
theorem test_entry_fields :
    (opOf contract91, eSrcFmt contract91, eDstFmt contract91, eScaleRule contract91, eGrp contract91, eWin contract91)
      = (some Op.contract, 14, 1, 1, 1, true)
    ∧ ((eSrc contract91).run, (eSrc contract91).cnt1, (eSrc contract91).step1, (eDst contract91).base) = (32, 3, 16, 0x100004000)
    ∧ (eIdxBase contract91, eIdxLim contract91, eOpndBase contract91, eAccExpC contract91, eOpndFmt contract91)
      = (0x200100000, 173056, 0x200100040, -20, 1)
    ∧ (eScBase contract91, eWinBase contract91, eCbSlot contract91, eCtally contract91, eClass contract91)
      = (0x2A0000000, 0x100004040, 37, 300, 3) := by decide +kernel
/-- Example 9.1: the checks hold; with idx_lim 0, cause 3 at offset 49. -/
theorem test_entry_check :
    chkData 96 0 contract91 none .contract = [] ∧ pickFault (chkData 96 0 (contract91 - 173056 * 2 ^ 392) none .contract) = some (3, 49) := by
  decide +kernel

/-- Example 10.1: tally 512 of target 3 at GCLK 250 after a SIGNAL of 4 and a faulted completion; then an abandoned arrival; and the
release of its watchdog. -/
def tal101 (y : Tally) : State := base.setT 512 y
def tal101b : Tally := { target := 3, count := 2, fire := 1, wake0 := { valid := true, wire := 40 }, wake1 := { valid := true, wire := 41 }, wdog := 5, armed := true }
def tal101c : Tally := { target := 3, count := 0, fire := 2, fault := true, epoch := 2, wdog := 5 }
def tal101d : Tally := { tal101c with count := 1, abandon := 1, armed := true, idle := 5, late := true }
def regOf (s : State) (off : Nat) : Option Nat := (regAt s off).map (·.val)
theorem test_tally_rounds :
    (countArrivals { target := 3, count := 1 } .normal 4).1.count = 2 ∧ (countArrivals { target := 3, count := 1 } .normal 4).1.fire = 1 := by
  decide +kernel
theorem test_tally_fault :
    (talPass (out (exec (.tallyArrive 0 512 1#2 1#16) (tal101 tal101b)))).getT 512 = { tal101b with count := 0, fire := 2, fault := true, epoch := 2, armed := false } := by
  decide +kernel
theorem test_tally_abandon :
    regOf (talPass (out (exec (.tallyArrive 0 512 2#2 1#16) (tal101 tal101c)))) 0x204000 = some 0x8000000200000001
    ∧ regOf (talPass (out (exec (.tallyArrive 0 512 2#2 1#16) (tal101 tal101c)))) 0x204010 = some 0x00020011 := by decide +kernel
theorem test_tally_watchdog :
    regOf (talPass (out (exec (.tallyWatchdogExpiry 512) (tal101 tal101d)))) 0x204000 = some 0x8000000300000000
    ∧ regOf (talPass (out (exec (.tallyWatchdogExpiry 512) (tal101 tal101d)))) 0x204010 = some 0x00020031 := by decide +kernel

/-- Example 11.1: the fault unit before the peer loss at tick 5,009, the record it writes, and FLT_STATUS. -/
def flt111 : State :=
  { base with tick.count := 5009#64, flt := { unack := [(1, true), (2, true)], tOpen := [(1, 5003), (2, 5006)], level := 2, nextSeq := 0x106 } }
def flt111b : State := fltPass (raise flt111 { src := 0xE, unit := 40, detail := 2207 })
theorem test_fault_record :
    leBytes (flt111b.flt.hist.getD 0#256 6).toNat 32
      = [0x91, 0x13, 0, 0, 0, 0, 0x06, 0x01, 0, 0x0E, 0x2B, 0, 0x28, 0, 0, 0, 0, 0, 0, 0x9F, 0x08] ++ List.replicate 11 0#8 := by decide +kernel
theorem test_fault_status :
    regOf (out (exec .safeStateEntry flt111b)) 0x10000 = some 0xE0E00000 ∧ flt111b.flt.safeDue = true := by decide +kernel
/-- Example 11.1: a write error that escalates at tick 5,006, and the peer loss that joins it. -/
theorem test_fault_escalates :
    ((classify { unack := [(1, true)], tOpen := [(1, 5003)] } 5006 1).k, (classify { unack := [(1, true)], tOpen := [(1, 5003)] } 5006 1).esc)
      = (2, true)
    ∧ ((classify { unack := [(2, true)], tOpen := [(2, 5006)] } 5006 0xE).k, (classify { unack := [(2, true)], tOpen := [(2, 5006)] } 5006 0xE).esc)
      = (2, false) := by decide +kernel

/-- Example 12.1: the stack address, its port and sub-channel. -/
def stk121 : State := { base with gran := { stkBase := 0x8000000000#64, stkSize := 0x80000000#64, stkIlv := 12 } }
theorem test_stack_decode : decodePa stk121 0x8012345678 = some (5, 0x2468678) ∧ lpaChan 0x2468600 = 3 ∧ decodePa stk121 0x100004030 = none := by
  decide +kernel

/-- Example 2.2: five rows of seven 4-bit elements, padded, from three stored rows; walk indices e = 3, i1 = 2 read 0xF. -/
def src22 : Shape :=
  { base := 0x1000, run := 7, cnt1 := 5, cnt2 := 1, cnt3 := 1, step1 := 3, step2 := 0, step3 := 0, start0 := -1, start1 := -1, ext0 := 5, ext1 := 3 }
def land22 : List Landed :=
  [{ side := .source, grp := 0, va := 0x1000, data := [0x21#8, 0x43#8, 0x05#8, 0x76#8, 0xEF#8, 0x00#8, 0x38#8, 0x33#8, 0x07#8], psn := 0#5 }]
theorem test_padded_walk :
    (streamElem src22 4 0xC land22 (fun _ => 0) 17).code = 0xF
    ∧ (rowBytes 4 ((List.range 7).map fun i => streamElem src22 4 0xC land22 (fun _ => 0) (14 + i))).map Prod.fst = [0x6C#8, 0xF7#8, 0x0E#8, 0x0C#8]
    ∧ (streamElem src22 4 0xC land22 (fun _ => 0) 0).pad = true := by decide +kernel
/-- Example 2.1: destination row 25 is read from A + 202,752. -/
theorem test_reversed_rows :
    srcRowBit { base := 211968, run := 4608, cnt1 := 24, cnt2 := 4, cnt3 := 1, step1 := -9216, step2 := 0, step3 := 0 } 16 1 1 0 = 8 * 202752 := by
  decide +kernel
/-- Example 14.1: crib slot 37, entries 14 and 15, with the codebook of Example 4.1; and FLT_SRC_CFG of peer lost. -/
theorem test_crib_read :
    (csRead (State.fresh { base with crib.mem := Memory.writeAll [] (512 * 37) (cb37.flatMap fun c => leBytes c 2) }) 0 0xC04A1C 4 false).1 = 0x3C003B00
    ∧ (csRead base 0 0x10138 4 false).1 = 6 := by decide +kernel
/-- Example 14.1: a unit that the configuration does not have reads as zero (R3, R10). -/
theorem test_absent_units :
    (csRead (State.fresh { base with cfg.bays := 32, cfg.linkPorts := 48 }) 0 0x834000 4 false).1 = 0
    ∧ (csRead (State.fresh { base with cfg.bays := 32, cfg.linkPorts := 48 }) 0 0xA3F018 4 false).1 = 0 := by decide +kernel
/-- R169: the check value of the CRC-32 of IEEE 802.3 over the digits 1 to 9; R292: of the CRC-16 with initial value 0xFFFF. -/
theorem test_crcs :
    crc32 [0x31, 0x32, 0x33, 0x34, 0x35, 0x36, 0x37, 0x38, 0x39] = 0xCBF43926
    ∧ crc16 [0x31, 0x32, 0x33, 0x34, 0x35, 0x36, 0x37, 0x38, 0x39] = 0x29B1 := by decide +kernel
/-- Every table row lacks bits: no word spells a command. -/
theorem test_no_words : decodeTableWord 32 0 = none ∧ base.withFetchWord 32 0 = base := by decide +kernel

/-! ### Witnesses: tallies, host channels, interrupt sources (10) -/

/-- Tallies: 5 bound, one arrival short; 6 unbound; 7 bound, two short; 8 armed and out of time. -/
def wTal : State := State.fresh
  { base with
    tal.tally := [(5, { target := 3, count := 2, wake0 := { valid := true, wire := 0 }, sigEn := true, sigSrc := 128 }),
                  (7, { target := 3, count := 1, sigEn := false }), (8, { target := 2, count := 1, armed := true, wdog := 5, idle := 5, late := true })]
    tal.wire := [(1, { since := 9999998, firedAt := some 9999999 })]
    hst := [(0, { valid := true, tally := 5, pending := true }), (1, { valid := true, tally := 6 }), (2, { valid := false })
            , (63, { valid := true, tally := 7, wr := some { addr := 8, data := [], due := 0 } })] }

theorem witness_TallyArrivals :
    Reaches wTal 0 (tReg 5 0x14) ∧ (2#2 : BitVec 2) ≠ 3#2 ∧ (0xFFFF#16 : BitVec 16) ≠ 0#16 ∧ (wTal.getT 5).target ≠ 0
    ∧ Reaches wTal 63 (tReg 16383 0x14) ∧ (0#2 : BitVec 2) ≠ 3#2 ∧ (1#16 : BitVec 16) ≠ 0#16 ∧ (wTal.getT 16383).target = 0 := by decide +kernel
theorem witness_TallyFireOutputs :
    Reaches wTal 0 (tReg 7 0x14) ∧ (wTal.getT 7).target ≠ 0 ∧ (wTal.getT 7).count + (1#16 : BitVec 16).toNat < (wTal.getT 7).target
    ∧ (wTal.getT 7).sigEn = false ∧ Reaches wTal 0 (tReg 5 0x14) ∧ (wTal.getT 5).target ≠ 0
    ∧ (wTal.getT 5).target ≤ (wTal.getT 5).count + (1#16 : BitVec 16).toNat
    ∧ ({ valid := true, wire := 0 } : Wake) ∈ [(wTal.getT 5).wake0, (wTal.getT 5).wake1, (wTal.getT 5).wake2, (wTal.getT 5).wake3]
    ∧ (0, ({ valid := true, tally := 5, pending := true } : HostCh)) ∈ wTal.hst ∧ wTal.cfg.hostSignal = true
    ∧ (wTal.start.tal.tally.getD {} 5).sigEn = true ∧ srcIsPulse (wTal.start.tal.tally.getD {} 5).sigSrc = true
    ∧ (wTal.start.tal.tally.getD {} 7).sigEn = false ∧ (wTal.start.hst.getD {} 0).valid = true ∧ (wTal.start.hst.getD {} 0).tally = 5 := by decide +kernel
theorem witness_WireLevels :
    wTal.runs = true ∧ wTal.eng.state ≠ .safe ∧ (wTal.tal.wire.getD {} 1).firedAt = some 9999999 ∧ (wTal.tal.wire.getD {} 0).firedAt = none
    ∧ wireLevel wTal 1 = true ∧ wireLevel { wTal with clk.gclk := 9999998 } 1 = false ∧ wireLevel { wTal with clk.gclk := 10000002 } 1 = false := by
  decide +kernel
theorem witness_TallyForce :
    Reaches wTal 0 (tReg 5 0x18) ∧ (wTal.getT 5).target ≠ 0 ∧ (wTal.getT 5).count < (wTal.getT 5).target := by decide +kernel
theorem witness_TallyForceUnbound : Reaches wTal 0 (tReg 6 0x18) ∧ (wTal.getT 6).target = 0 := by decide +kernel
theorem witness_TallyWatchdog :
    Reaches wTal 0 (tReg 5 0xC) ∧ (0x80000000#32 : Word).getLsbD 31 = true ∧ Reaches wTal 0 (tReg 5 0x10) ∧ wTal.runs = true
    ∧ (wTal.getT 8).target ≠ 0 ∧ (wTal.getT 8).armed = true ∧ (wTal.getT 8).late = true ∧ (wTal.getT 8).idle ≠ 0
    ∧ (wTal.getT 8).count < (wTal.getT 8).target ∧ (wTal.getT 7).count + 1 < (wTal.getT 7).target ∧ (wTal.getT 6).target = 0 := by decide +kernel
theorem witness_HostDoorbell :
    Reaches wTal 0 (hReg 0 0x10) ∧ wTal.cfg.hostSignal = true ∧ (wTal.getH 0).valid = true ∧ (wTal.getT (wTal.getH 0).tally).target ≠ 0
    ∧ Reaches wTal 0 (hReg 1 0x10) ∧ (wTal.getH 1).valid = true ∧ (wTal.getT (wTal.getH 1).tally).target = 0
    ∧ Reaches wTal 0 (hReg 2 0x10) ∧ (wTal.getH 2).valid = false
    ∧ Reaches { wTal with cfg.hostSignal := false } 0 (hReg 0 0x10) ∧ ({ wTal with cfg.hostSignal := false } : State).cfg.hostSignal = false
    ∧ (1#2 : BitVec 2) ≠ 3#2 ∧ (1#16 : BitVec 16) ≠ 0#16 := by decide +kernel
/-- A front-end request of a kind, and one more piece of the one before it. -/
def feReq (use : FeUse) (gone more : Bool) (due : Nat := 0) : FeReq := { use, lane := 0, we := false, addr := 0, len := 8, due, gone, more }
theorem witness_FrontEndRequests :
    (feTry base (.index 1) false 0x10000 8).isSome = true ∧ (feTry base (.entries 1 0) false 0x7FFFFF80 256).isSome = true
    ∧ base.fe = [] ∧ (fePieces base 0x10000 256).length ≤ 16
    ∧ ({ base with fe := [feReq (.index 2) false false, feReq (.index 1) false false, feReq (.index 1) false true, feReq (.index 1) false false] } : State).fe
      = [feReq (.index 2) false false] ++ feReq (.index 1) false false :: [feReq (.index 1) false true] ++ [feReq (.index 1) false false] := by
  decide +kernel
theorem witness_HostNotification :
    wTal.runs = true ∧ (wTal.getH 0).pending = true ∧ (wTal.getH 0).wr = none ∧ (wTal.start.hst.getD {} 0).wr = none ∧ wTal.eng.state ≠ .safe
    ∧ (feTry wTal (.host 0) true ((wTal.getH 0).addr.toNat / 8 * 8) 8).isSome = true
    ∧ (wTal.getH 63).wr = some { addr := 8, data := [], due := 0 } ∧ 0 ≤ wTal.clk.gclk ∧ (3#2 : BitVec 2) ≠ 0#2 := by decide +kernel

/-- Sources: 1 a latched pulse; 0 a level about to rise (a fault is uncleared); 3 a level that has fallen; core 0's slot 0 active. -/
def wSig (on : Bool) : State :=
  State.fresh { base with
    flt.level := 1
    sig := { clockOn := on, enable := true, offer := [(0, some 1)], prev := [0]
             src := [(1, { rise := true, pending := true, cfg := 0x80000000#32 }), (3, { input := true, cfg := 0x80000000#32 })
                     , (512, { active := true, input := true }), (129, { rise := true })] } }

theorem witness_SignalInput :
    (wSig true).runs = true ∧ srcIsPulse 1 = true ∧ (wSig true).sig.clockOn = true ∧ ((wSig true).getS 1).rise = true
    ∧ ((wSig true).getS 1).pulseAt ≠ some (wSig true).clk.gclk
    ∧ srcIsPulse 0 = false ∧ srcIsLevel (wSig true) 0 = true ∧ 0 ∈ (wSig true).sig.prev ∧ ((wSig true).getS 0).input = false
    ∧ srcIsPulse 3 = false ∧ srcIsLevel (wSig true) 3 = true ∧ 3 ∉ (wSig true).sig.prev ∧ ((wSig true).getS 3).input = true := by
  decide +kernel
theorem witness_SignalInput_gated :
    (wSig false).sig.clockOn = false ∧ 0 ∈ (wSig false).sig.prev ∧ ((wSig false).getS 0).rise = false ∧ ((wSig false).getS 0).input = false
    ∧ 3 ∉ (wSig false).sig.prev ∧ ((wSig false).getS 3).fall = false ∧ ((wSig false).getS 3).input = true := by decide +kernel
theorem witness_DistributorRestart :
    (wSig false).runs = true ∧ (wSig false).sig.clockOn = false
    ∧ ∃ n x, (n, x) ∈ (wSig false).sig.src ∧ (x.rise = true ∨ x.fall = true) :=
  ⟨by decide +kernel, by decide +kernel, 129, { rise := true }, by decide +kernel, by decide +kernel⟩
theorem witness_VectorOffer : (wSig true).runs = true ∧ (wSig true).sig.clockOn = true ∧ bestSource (wSig true).atStart 0 = some 1 := by decide +kernel
theorem witness_VectorTransferAndEoi :
    (wSig true).runs = true ∧ (wSig true).sig.offer.getD none 0 = some 1 ∧ Reaches (wSig true) 0 0x20004
    ∧ 512 = (512#32 : Word).toNat % 65536 ∧ ((wSig true).getS 512).active = true ∧ ((wSig true).getS ((1#32 : Word).toNat % 65536)).active = false
    ∧ ((wSig true).getS 1).active = false ∧ ((wSig true).getS 1).pending = true ∧ ({ cfg := 0x80000000#32, input := true, active := true, eoi := true } : Src).eoi = true := by
  decide +kernel
theorem witness_SignalControl :
    (1 < 33280) ∧ Reaches (wSig true) 0 (sReg 1 4) ∧ ((wSig true).getS 1).cfg.getLsbD 31 = true ∧ Reaches (wSig true) 0 (sReg 33279 4)
    ∧ ((wSig true).getS 33279).cfg.getLsbD 31 = false ∧ Reaches (wSig true) 0 0x20000
    ∧ (0#32 : Word).getLsbD 0 = false ∧ (1#32 : Word).getLsbD 0 = true := by decide +kernel

/-! ### Witnesses: faults and ticks (11, 01) -/

/-- A fault unit with level B and class B unacknowledged, a quiet period at its end; bay 3 under its clearing; the granger down. -/
def wFlt : State :=
  { base with
    flt := { level := 1, unack := [(1, true)], tOpen := [(1, 0)], recDue := true, safeDue := true }
    bay := [(3, { faulted := true, clearAt := some 0 })] }

theorem witness_EventRecord :
    1 ≤ ({ src := 0xE, sub := 255, unit := 65535, inst := some (65535, 131071) } : Ev).src
    ∧ ({ src := 0xE, sub := 255, unit := 65535, inst := some (65535, 131071) } : Ev).src ≤ 0x1B
    ∧ (fltCfg base.flt 0xE).getLsbD 2 = true ∧ base.flt.nextSeq < 2 ^ 24
    ∧ (fltCfg ({ base with flt.cfg := [(0xE, 0#32)] } : State).flt 0xE).getLsbD 2 = false ∧ (0x1B : Nat) < 0x1C ∧ base.eng.state ≠ .test := by decide +kernel
theorem witness_ClassDEntersSafe :
    (classify base.flt base.tick.count.toNat 0x11).k = 3 ∧ base.eng.state = .service
    ∧ (classify base.flt base.tick.count.toNat 0x1B).k < 3 ∧ (classify base.flt base.tick.count.toNat 1).k < 3 := by decide +kernel
theorem witness_EventClassification :
    (classify { unack := [(1, true)], tOpen := [(1, 0)] } 2 1).esc = true ∧ (classify { cnt := [(1, 15)], wstart := [(1, 0)] } 99 1).counted = true
    ∧ (classify {} 0 0x1B).k = 0 := by decide +kernel
theorem witness_FaultRegisters :
    Reaches wFlt 0 0x10004 ∧ Reaches wFlt 0 0x10014 ∧ Reaches wFlt 0 (0x10100 + 4 * 1) ∧ Reaches wFlt 0 (0x10100 + 4 * 0x1B)
    ∧ Reaches wFlt 0 (0x10100 + 4 * 0x1C) ∧ Reaches wFlt 0 (0x10100 + 4 * 0)
    ∧ ({ wFlt with flt.testMode := true } : State).flt.testMode = true ∧ (0x80000000#32 : Word).getLsbD 31 = true
    ∧ wFlt.flt.evs = [] ∧ wFlt.ticked = false ∧ wFlt.flt.recover = false := by decide +kernel
theorem witness_SafeStateEntry : wFlt.flt.safeDue = true ∧ wFlt.eng.state = .service := by decide +kernel
/-- A recovery commanded in this GCLK, outside SAFE and in it, with a write of a bay outstanding or not, and with a fault of the GCLK. -/
def wRec (e : EngState) (w : List Write) (evs : List Ev) : State := { wFlt with eng.state := e, flt.recover := true, writes := w, flt.evs := evs }
theorem witness_Recovery :
    wFlt.runs = true ∧ wFlt.flt.level ≠ 0 ∧ (wRec .service [] []).flt.recover = true ∧ (wRec .service [] []).flt.recDue = true
    ∧ (wRec .service [] []).flt.writes = [] ∧ (wRec .service [] []).flt.evs = [] ∧ (wRec .service [] []).ticked = false
    ∧ (wRec .service [] []).eng.state ≠ .safe ∧ (wRec .safe [] []).eng.state = .safe ∧ writesEnded (wRec .safe [] []) = true
    ∧ writesEnded (wRec .safe [{ bay := 0, tag := 0, flight := 0, pa := 0, req := { side := .dest, ord := 0, elem := 0, part := 0, va := 0, data := [0#8], psn := 0#5 } }] []) = false
    ∧ (wRec .service [] [{ src := 1 }]).flt.evs = [{ src := 1 }] ∧ 1 ≤ (classify (wRec .service [] [{ src := 1 }]).flt base.tick.count.toNat 1).k := by decide +kernel
/-- With no fault in its GCLK the recovery brings SAFE back to SERVICE; with one it does not. -/
theorem test_recovery :
    (fltPass (wRec .safe [] [])).eng.state = .service ∧ (fltPass (wRec .safe [] [{ src := 1 }])).eng.state = .safe := by decide +kernel
theorem witness_BayFaultAndClear :
    wFlt.runs = true ∧ 0 < wFlt.cfg.bays ∧ 63 < wFlt.cfg.bays ∧ (wFlt.getB 3).faulted = true ∧ (∀ w ∈ wFlt.writes, w.bay ≠ 3)
    ∧ (wFlt.getB 3).clearAt = some 0 ∧ 0 + 2048 ≤ wFlt.clk.gclk := by decide +kernel

/-- The check word of a long string, piece by piece. -/
theorem crc16From_append (a b : List Byte) (c : Nat) : crc16From c (a ++ b) = crc16From (crc16From c a) b := by
  induction a generalizing c with
  | nil => rfl
  | cons x r ih => simp [crc16From, ih]
/-- A QUERY of the admin queue with its check word (0x0534 = 1332). -/
def query0 : Nat := 9 * 2 ^ 16 + 2 ^ 24 + 1332
theorem query0_crc : crc16 (leBytes (query0 >>> 16) 62) = bits query0 0 16 := by
  have h : leBytes (query0 >>> 16) 62 = [9#8, 1#8] ++ List.replicate 10 0#8 ++ List.replicate 10 0#8 ++ List.replicate 10 0#8
      ++ List.replicate 10 0#8 ++ List.replicate 10 0#8 ++ List.replicate 10 0#8 := by decide +kernel
  rw [h, crc16, crc16From_append, crc16From_append, crc16From_append, crc16From_append, crc16From_append,
    show crc16From 0xFFFF ([9#8, 1#8] ++ List.replicate 10 0#8) = 17517 by decide +kernel,
    show crc16From 17517 (List.replicate 10 0#8) = 31033 by decide +kernel,
    show crc16From 31033 (List.replicate 10 0#8) = 52305 by decide +kernel,
    show crc16From 52305 (List.replicate 10 0#8) = 38484 by decide +kernel,
    show crc16From 38484 (List.replicate 10 0#8) = 37845 by decide +kernel]
  decide +kernel
theorem query0_good : admCheck 1024 query0 = 0 := by
  unfold admCheck
  rw [if_neg (by rw [query0_crc]; simp)]
  decide +kernel
/-- The granger's fault, and the command it was carrying out. -/
def wGranger (phase : CmdPhase) : State := { base with eng.gFaultAt := some 5, adm.cmd := some { pos := 0, raw := query0, phase } }
theorem witness_GrangerFaultAndRestart :
    base.runs = true ∧ base.eng.gHeld = false ∧ base.eng.gFaultAt = none ∧ base.eng.state = .service
    ∧ (wGranger .writing).eng.gFaultAt = some 5 ∧ 5 + 1024 ≤ (wGranger .writing).clk.gclk
    ∧ (wGranger .writing).adm.cmd = some { pos := 0, raw := query0, phase := .writing } := by decide +kernel
theorem witness_GrangerRestart_ready :
    (wGranger .waiting).adm.cmd = some { pos := 0, raw := query0, phase := .waiting } ∧ admCheck (wGranger .waiting).cfg.wakeWires query0 = 0 :=
  ⟨by decide +kernel, query0_good⟩
theorem witness_EccEvents :
    ({ flight (unit1 1 []) with land := [{ side := .source, grp := 0, va := 0x1000, data := [0#8], psn := 0#5 }] } : Flight).land[0 / 32 % max 1 1]?
      = some { side := .source, grp := 0, va := 0x1000, data := [0#8], psn := 0#5 } ∧
    (inFlight (flight (unit1 1 []))).runs = true ∧ 0 < 3 ∧ 2 < 3 ∧ (inFlight (flight (unit1 1 []))).flightAt 1 0 = some (flight (unit1 1 []))
    ∧ (inFlight (flight (unit1 1 []))).flightAt 65535 131071 = none := by decide +kernel

/-- Ticks: tick_in in use since an edge, or not, with the clock far on. -/
def wTick (ext : Bool) (edge : Option Nat) : State := { base with tick := { ext, lastEdge := edge, edges := 3 } }
theorem witness_TickCounted :
    base.runs = true ∧ base.flt.level = 0 ∧ wFlt.runs = true ∧ wFlt.flt.level ≠ 0 ∧ wFlt.flt.hits = []
    ∧ wFlt.flt.evs = [] ∧ wFlt.flt.writes = [] ∧ wFlt.flt.recover = false ∧ wFlt.ticked = false
    ∧ ({ wFlt with tick.count := 1#64 } : State).ticked = true
    ∧ ({ wFlt with flt.hits := [1] } : State).flt.hits ≠ [] ∧ (wTal.getT 8).armed = true ∧ wTal.fresh.atStart.getT 8 = wTal.getT 8
    ∧ (wTal.getT 8).wdog ≠ 0 ∧ (wTal.getT 8).target ≠ 0 ∧ ({ rid := 7, pcnt := 2, rede := 1, accExp := 0, mark := none, accs := [] } : Bin).fed = false := by decide +kernel
theorem witness_TickSources :
    (wTick false none).runs = true ∧ (wTick false none).tick.ext = false
    ∧ (wTick false none).tick.lastTick + (wTick false none).tick.actPeriod ≤ (wTick false none).clk.gclk
    ∧ (wTick true (some 9999301)).tick.lastEdge = some 9999301 ∧ (wTick true (some 9999301)).clk.gclk < 9999301 + 700
    ∧ (∀ e ∈ (wTick true (some 9999300)).tick.lastEdge, e + 700 ≤ (wTick true (some 9999300)).clk.gclk)
    ∧ (wTick true (some 9999300)).tick.ext = true ∧ (wTick false (some 9300000)).tick.actInternal = false
    ∧ 4 ≤ (wTick false (some 9300000)).tick.edges + 1 ∧ (wTick false (some 9300000)).ticked = false
    ∧ ({ wTick false (some 9300000) with tick.count := 1#64 } : State).ticked = true ∧ (wTick false (some 9300000)).clk.gclk ≤ 9300000 + 700000
    ∧ (wTick true (some 8600000)).tick.ext = true ∧ (wTick true (some 8600000)).tick.lastEdge = some 8600000
    ∧ 8600000 + 1400000 ≤ (wTick true (some 8600000)).clk.gclk := by decide +kernel
theorem witness_TickConfig : Reaches base 0 0x18 ∧ Reaches (inState .test) 0 0x18 := by decide +kernel

/-! ### Witnesses: bay power, start-up, debug (12, 13) -/

/-- Bays: 0 at rest in Active, 1 in Idle, 2 in Nap, 3 in Idle with a part, 4 at the end of a wake. -/
def wBay : State :=
  { base with
    eng.latTol := 120000#32, nextId := 1
    bay := [(0, {}), (1, { pwr := .idle }), (2, { pwr := .nap, since := 9916000 }), (3, { pwr := .idle, waits := [(0, 0)] })
            , (4, { pwr := .nap, waking := some 10000000, defer := [{ all := true, lo := 0, hi := 0 }], mapc := [{ va := 0, size := 0, pa := 0 }] })]
    flights := [{ id := 0, q := 1, pos := 0, raw := unit1 1 [], parts := [{ bay := 3, since := 9999936 }] }] }
theorem witness_BayPowerDown :
    wBay.runs = true ∧ (wBay.getB 0).pwr = .active ∧ (wBay.getB 0).waking = none ∧ (wBay.getB 0).faulted = false ∧ (wBay.getB 0).waits = []
    ∧ 40 ≤ wBay.eng.latTol.toNat ∧ (wBay.getB 0).ctxs = [] ∧ (wBay.getB 0).loft = 0 ∧ (∀ l ∈ wBay.locks, l.bay ≠ 0)
    ∧ (wBay.getB 0).since + 32 ≤ wBay.clk.gclk := by decide +kernel
theorem witness_BayNapDormant :
    (wBay.getB 1).pwr = .idle ∧ (wBay.getB 1).waits = [] ∧ 4000 ≤ wBay.eng.latTol.toNat ∧ (wBay.getB 1).since + 2800 ≤ wBay.clk.gclk
    ∧ (wBay.getB 2).pwr = .nap ∧ (wBay.getB 2).waits = [] ∧ 120000 ≤ wBay.eng.latTol.toNat ∧ (wBay.getB 2).since + 84000 ≤ wBay.clk.gclk
    ∧ (∀ x ∈ wBay.lnk.bins, 2 ∉ x.slices) := by decide +kernel
theorem witness_BayWakes :
    wBay.runs = true ∧ (3 < wBay.cfg.bays) ∧ (wBay.getB 3).pwr ≠ .active ∧ (wBay.getB 3).waking = none ∧ (wBay.getB 3).waits ≠ []
    ∧ ({ wBay with eng.latTol := 3999#32 } : State).eng.latTol.toNat < latencyNs (wBay.getB 2).pwr
    ∧ (wBay.getB 4).waking = some 10000000 ∧ 10000000 ≤ wBay.clk.gclk
    ∧ longWaiting wBay = some (0, 0) ∧ nextSleeper wBay = some 2 ∧ wBay.flightOf 0 ≠ none
    ∧ ({ wBay with eng.lastWake := some 9999937 } : State).eng.lastWake = some 9999937 ∧ wBay.clk.gclk < 9999937 + 64 := by decide +kernel
theorem witness_LatencyTolerance :
    Reaches wBay 0 0x1C ∧ latencyNs (wBay.getB 1).pwr ≤ (40#32 : Word).toNat ∧ (wBay.getB 4).waking ≠ none
    ∧ (39#32 : Word).toNat < latencyNs (wBay.getB 1).pwr ∧ (wBay.getB 1).waking = none := by decide +kernel

/-- A block that has not started, with an image length of 64 and of 63, and an image kept. -/
def wCold (n : BitVec 21) (kept : Bool) : State := { base with eng := { fwLen := n, imgKept := kept } }
theorem witness_FirmwareLoad :
    Reaches (wCold 64#21 true) 0 0x2C ∧ (wCold 64#21 true).eng.state = .cold ∧ (wCold 64#21 true).eng.fwLen.toNat % 64 = 0
    ∧ 64 ≤ (wCold 64#21 true).eng.fwLen.toNat ∧ (wCold 1048576#21 true).eng.fwLen.toNat ≤ 1048576 ∧ (wCold 64#21 true).eng.fwBase.toNat % 64 = 0
    ∧ (wCold 64#21 true).eng.imgKept = true ∧ ¬ ((wCold 63#21 true).eng.fwLen.toNat % 64 = 0) ∧ (wCold 64#21 false).eng.imgKept = false
    ∧ Reaches { inState .test with eng.cause := 0x10 } 0 0x2C ∧ ({ inState .test with eng.cause := 0x10 } : State).eng.cause ≠ 0 := by
  decide +kernel
theorem witness_FirmwareLoadIgnored :
    Reaches base 0 0x2C ∧ base.eng.state = .service ∧ Reaches (inState .test) 0 0x2C ∧ (inState .test).eng.state = .test ∧ (inState .test).eng.cause = 0 := by
  decide +kernel

/-- A load whose (empty) image is being hashed; the digest of the empty string. -/
def wLoad (digest : Tbl Word) (skip : Bool) : State :=
  { base with eng := { state := .load, hashing := true, skipTest := skip, digest, testBase := if skip then 1#64 else 0#64 } }
def emptyDigest : Tbl Word :=
  [(0, 2808131640#32), (1, 949398609#32), (2, 2117261644#32), (3, 1793307057#32), (4, 297270561#32), (5, 1124580884#32), (6, 3217493068#32),
   (7, 3672241763#32), (8, 3219017255#32), (9, 4217728999#32), (10, 4057078485#32), (11, 1538889800#32)]
set_option maxRecDepth 20000 in
theorem witness_DigestCheck_match :
    (sha384 ((wLoad emptyDigest true).eng.gmem.readN 0 (wLoad emptyDigest true).eng.fwLen.toNat)
      = (List.range 12).flatMap fun n => leBytes ((wLoad emptyDigest true).eng.digest.getD 0#32 n).toNat 4)
    ∧ sha384 ((wLoad [] true).eng.gmem.readN 0 (wLoad [] true).eng.fwLen.toNat)
      ≠ (List.range 12).flatMap fun n => leBytes ((wLoad [] true).eng.digest.getD 0#32 n).toNat 4 := by decide +kernel
theorem witness_DigestCheck :
    (wLoad [] false).eng.state = .load ∧ (wLoad [] false).eng.cause = 0 ∧ (wLoad [] false).eng.hashing = true ∧ (wLoad [] false).eng.reuse = false
    ∧ feImage (feReq (.image 0) false false).use = true ∧ (feReq (.image 0) false false).gone = false
    ∧ (feReq (.image 0) false false 10000000).due ≤ (wLoad [] false).clk.gclk
    ∧ (wLoad [] false).eng.since + 40 * (((wLoad [] false).eng.fwLen.toNat + 16) / 128 + 1) < (wLoad [] false).clk.gclk
    ∧ (wLoad [] true).eng.skipTest = true ∧ (wLoad [] true).adm.enableDue = false ∧ (wLoad [] false).eng.skipTest = false
    ∧ (wLoad [] false).eng.testBase.toNat % 2097152 = 0 ∧ (wLoad [] true).eng.testBase.toNat % 2097152 ≠ 0 := by decide +kernel
theorem witness_SelfTest :
    ({ inState .test with clk.gclk := 67108864 } : State).eng.state = .test ∧ ({ inState .test with clk.gclk := 67108864 } : State).eng.cause = 0
    ∧ (inState .test).adm.enableDue = false ∧ 63 < 64
    ∧ ({ inState .test with clk.gclk := 67108864 } : State).eng.since + 2 ^ 26 ≤ ({ inState .test with clk.gclk := 67108864 } : State).clk.gclk := by
  decide +kernel
theorem witness_FreezeAndRecompute : base.runs = true ∧ ({ base with crib.stale := true } : State).crib.stale = true := by decide +kernel

/-- An open bin, a map-cache entry, and a part with an accumulator in context 5 of bay 3; the loft of bay 1 cleared. -/
def wDbg : State :=
  { base with
    flights := [{ flight (unit1 9 []) with stage := .writing, parts := [{ bay := 3, ctx := some 5, accs := [{ s := -2, fl := 1 }] }] }]
    lnk.bins := [{ rid := 7, pcnt := 2, rede := 1, accExp := 0, mark := none, accs := [{ s := -1, fl := 2 }] }]
    bay := [(1, { loftClear := true }), (63, { mapc := [{ va := 0x1000, size := 0, pa := 0x2000 }] })] }
theorem witness_DebugReads :
    dbgGood wDbg 0 (0x10138) = true ∧ dbgGood wDbg 0 (2 ^ 55 + 0x200) = true ∧ dbgGood wDbg 3 (7 * 2 ^ 32 + 2) = true
    ∧ binAcc wDbg (7 * 2 ^ 32 / 2 ^ 32 % 2 ^ 16) (7 * 2 ^ 32 / 4 % 2 ^ 17) = some { s := -1, fl := 2 }
    ∧ dbgGood wDbg 4 (63 * 2 ^ 48) = true ∧ dbgGood wDbg 2 (3 * 2 ^ 48 + 5 * 2 ^ 40 + 2) = true
    ∧ partAcc wDbg ((3 * 2 ^ 48 + 5 * 2 ^ 40 + 2) / 2 ^ 48 % 2 ^ 6) ((3 * 2 ^ 48 + 5 * 2 ^ 40 + 2) / 2 ^ 40 % 2 ^ 7)
      ((3 * 2 ^ 48 + 5 * 2 ^ 40 + 2) / 4 % 2 ^ 16) = some { s := -2, fl := 1 }
    ∧ (wDbg.getB (63 * 2 ^ 48 / 2 ^ 48 % 2 ^ 6)).mapc[63 * 2 ^ 48 / 2 % 2 ^ 10]? = some { va := 0x1000, size := 0, pa := 0x2000 } := by decide +kernel
theorem witness_DebugReads_bad :
    dbgGood wDbg 5 0xFFFF8 = true ∧ dbgGood wDbg 5 0x100000 = false ∧ dbgGood wDbg 3 3 = false ∧ 6 ≤ 6
    ∧ ({ wDbg with cfg.bays := 32 } : State).cfg.bays ≤ 32 * 2 ^ 48 / 2 ^ 48 % 2 ^ 6
    ∧ dbgGood wDbg 1 (2 ^ 48) = true ∧ (wDbg.getB (2 ^ 48 / 2 ^ 48 % 2 ^ 6)).loftClear = true := by decide +kernel
theorem witness_DebugWrites :
    dbgGood base 0 8 = true ∧ base.runs = true ∧ grangerDue base = false ∧ grangerDue { base with pending := [.setClass] } = true
    ∧ dbgGood base 5 8 = true ∧ (5 : Nat) ≠ 0 ∧ dbgGood (inState .frozen) 0 8 = true
    ∧ (inState .frozen).eng.state = .frozen ∧ dbgGood base 0 2 = false := by decide +kernel
theorem witness_DebugRegister : ({} : Debug).busy = false ∧ ({ busy := true } : Debug).busy = true := by decide +kernel
/-- Table 13.6: op 3 in space 5, and what a capture shows after it. -/
theorem test_debug_register :
    (updateDr base 0x35000000000000080000000000000000#128).pending = [.debugReadAdvance 5 8]
    ∧ dbgCapture { space := 5#4, addr := 8, data := 7#64, busy := true } = 0x15000000000000080000000000000007#128 := by decide +kernel

/-! ### Witnesses: the control space (14) -/

theorem witness_GranaryControl :
    Reaches base 0 0xE00000 ∧ stackIdle base = true ∧ Reaches base 0 0xE00020 ∧ Reaches base 0 0xE00028 ∧ Reaches base 0 0xE00030
    ∧ (2 < 3) ∧ stackIdle (inFlight (flight 0)) = false ∧ Reaches (inFlight (flight 0)) 0 (stkReg 2) := by decide +kernel
theorem witness_CribWrites :
    base.runs = true ∧ csOpen base 0 = true ∧ 0x7FFF8 < 0x80000 ∧ 0x7FFF8 % 8 = 0 ∧ cribBusy base (0x7FFF8 / 512) = false ∧ base.crib.mem.wf = true
    ∧ cribBusy { base with crib.loading := some 3 } (0x600 / 512) = true ∧ csOpen { base with crib.loading := some 3 } 0 = true
    ∧ 0x600 % 4 = 0 ∧ 0x7FFFC % 8 ≠ 0 := by decide +kernel
theorem witness_QueueCounters :
    1 ≤ 65535 ∧ 65535 < 65536 ∧ Reaches (base.setQ 65535 { state := .error }) 0 (qReg 65535 0x20)
    ∧ ((base.setQ 65535 { state := .error }).getQ 65535).state ≠ .absent ∧ Reaches (base.setQ 65535 { state := .error }) 0 (qReg 65535 0x28)
    ∧ base.runs = true ∧ 0 < base.cfg.bays ∧ csRoom base 0 = true ∧ base.cs.cur = false := by decide +kernel
/-- A port with a pending low half of STK_BASE, one with the half of another register, one with a captured high half. -/
def wHalf : State :=
  State.fresh { base with cs := { low := [(0, some (0xE00020, 1#32)), (1, some (0x200, 1#32))], hi := [(0, some (0xE00020, 9#32))] } }
theorem witness_RegisterHalves :
    0 < wHalf.cfg.bays ∧ (∀ p ∈ [0, 1, 2], csOpen wHalf p = true ∧ csRoom wHalf p = true) ∧ wHalf.cs.cur = false ∧ regAt wHalf.view 0xE00020 = some { wide := true, val := 0 } ∧ regAt wHalf.view (0xE00020 + 4) = none ∧
    wHalf.runs = true ∧ 0xE00020 % 8 = 0 ∧ regAt wHalf 0xE00020 = some { wide := true, val := 0 } ∧ regAt wHalf (0xE00020 + 4) = none
    ∧ testShut wHalf 0 0xE00020 = false ∧ testShut wHalf 0 (0xE00020 + 4) = false ∧ wHalf.cs.low.getD none 0 = some (0xE00020, 1#32)
    ∧ wHalf.cs.low.getD none 1 = some (0x200, 1#32) ∧ wHalf.cs.low.getD none 2 = none ∧ wHalf.cs.hi.getD none 0 = some (0xE00020, 9#32) := by
  decide +kernel
/-- LNK_CRC_CNT of port 0 has counted; a read of this GCLK has already cleared it in the second state. -/
def wRc (seen : List Nat) : State := State.fresh { base with lnk.port := [(0, { crcCnt := 5 })], clk.seen := seen }
theorem witness_RegisterReads :
    (wRc []).runs = true ∧ csRoom (wRc []) 0 = true ∧ 0x800014 % 4 = 0 ∧ inCrib 0x800014 = false ∧ regAt (wRc []).view 0x800014 = some { wide := false, val := 5 }
    ∧ (rcClear (wRc []) 0x800014).isSome = true ∧ 0 < (wRc []).cfg.bays ∧ 0x800014 ∉ (wRc []).clk.seen
    ∧ 0x800014 ∈ (wRc [0x800014]).clk.seen
    ∧ rcClear base 0x08 = none ∧ (wRc []).cfg.bays ≤ 64 ∧ regAt base.view 0xE0 = none ∧ 0xE0 % 8 = 0 := by decide +kernel
theorem witness_RegisterWrites :
    base.runs = true ∧ csOpen base 0 = true ∧ csOpen ({ base with adm.ringLog2 := 4 } : State) 0 = true ∧ (∀ x ∈ base.lnk.port, x.2.state = .down) ∧ ({ base with lnk.port := [(95, { state := .up })] } : State).runs = true
    ∧ ((95, ({ state := .up } : Port)) ∈ ({ base with lnk.port := [(95, { state := .up })] } : State).lnk.port)
    ∧ (wCold 0#21 false).eng.state = .cold ∧ 11 < 12 ∧ base.eng.state = .service ∧ base.adm.ringLog2 = 0 ∧ base.adm.cmd = none
    ∧ base.cs.low.getD none 0 = none ∧ ({ base with adm.ringLog2 := 4 } : State).adm.ringLog2 ≠ 0 := by decide +kernel
theorem witness_NoRegisterThere :
    base.runs = true ∧ csRoom base 0 = true ∧ csOpen base 0 = true ∧ inCrib 0x3FFFFFC = false ∧ 0x3FFFFFC % 4 = 0 ∧ regAt base 0x3FFFFFC = none ∧ regAt base.view 0x3FFFFFC = none
    ∧ regAt base.view (0x3FFFFFC - 4) = none ∧ regAt base.view 0x3FFFFF8 = none ∧ regAt base.view (0x3FFFFF8 + 4) = none
    ∧ regAt base (0x3FFFFFC - 4) = none ∧ 0x3FFFFF8 % 8 = 0 ∧ regAt base 0x3FFFFF8 = none ∧ regAt base (0x3FFFFF8 + 4) = none := by decide +kernel
theorem witness_WritesCollide : 8 ∈ ({ base with clk.writes := [8] } : State).clk.writes ∧ 8 ∉ base.clk.writes := by decide +kernel
/-- A port that holds n responses, none of them ready. -/
def wPorts (n : Nat) : State := { base with cs := { id := [(63, 1023)], resp := [(63, List.replicate n { id := 1, data := 9#64 })] } }
theorem witness_AccessesAnswered :
    (wPorts 7).runs = true ∧ 63 < (wPorts 7).cfg.bays ∧ (wPorts 7).cs.cur = false ∧ csOpen (wPorts 7) 63 = true
    ∧ 8 ≤ ((wPorts 8).cs.resp.getD [] 63).length ∧ (wPorts 8).cs.cur = false
    ∧ ((wPorts 7).cs.resp.getD [] 63).length = 7 ∧ csRoom (wPorts 8) 63 = false := by decide +kernel
/-- A write to ENG_LAT_TOL by port 1 with one of port 0 still to come, and both waiting. -/
def wWaitW (l : List Instr) (p : List Instr) : State := { base with cs.wait := l, pending := p }
theorem witness_WriteArbiter :
    csPort (.engLatTolWrite 1 5#32) = some 1 ∧ (wWaitW [] [.engLatTolWrite 0 4#32]).runs = true
    ∧ csOpen (wWaitW [] [.engLatTolWrite 0 4#32]) 1 = false ∧ csRoom (wWaitW [] [.engLatTolWrite 0 4#32]) 1 = true
    ∧ csOpen (wPorts 8) 63 = false ∧ csRoom (wPorts 8) 63 = false
    ∧ base.cfg.grantHold = false ∧ base.cs.arb = [] ∧ base.dbg.busy = false ∧ base.clk.ports = [] ∧ base.cs.late = []
    ∧ (csAsking (wWaitW [.engLatTolWrite 1 5#32, .engLatTolWrite 0 4#32] [])).length ≤ 4 := by decide +kernel
theorem witness_WriteArbiter_responses :
    ({ base with cs.resp := [(3, [{ id := 1, data := 9#64, done := true }, { id := 2, data := 0#64 }, { id := 3, data := 0#64, done := true }])] } : State).cs.resp.getD [] 3
      = [] ++ ({ id := 1, data := 9#64, done := true } : CsResp) :: { id := 2, data := 0#64 } :: [{ id := 3, data := 0#64, done := true }] := by
  decide +kernel
/-- R310: of two writes of a GCLK to one register, sent in falling port number, the higher port's stands, and one collision is counted. -/
theorem test_ports_in_order :
    (csPass (wWaitW [.engLatTolWrite 1 5#32, .engLatTolWrite 0 4#32] [])).eng.latTol = 5#32
    ∧ (csPass (wWaitW [.engLatTolWrite 1 5#32, .engLatTolWrite 0 4#32] [])).eng.collide = 1 := by decide +kernel

/-! ### Witnesses: work queues (08) -/

/-- The admin queue ENABLED with a ring of 16 and one command announced; its completion ring full in the second. -/
def wAq (cons : Nat) (cmd : Option AdmCmd) (wr : List FeWrite) (rd : Option Nat) : State :=
  { base with adm := { ringLog2 := 4, size := 16, state := .enabled, p := 1, cplProd := 16, cplCons := cons, cmd, idxWr := wr, idxRead := rd } }
/-- Queue 1 in a state, with its ring of 16. -/
def wQ (y : Queue) : State := base.setQ 1 { y with k := 4, ringBase := 0x10000, headAddr := 0x10000, fetchAddr := 0x10000 }
theorem witness_Strikes :
    1 ≤ 1 ∧ Reaches (wQ { state := .enabled }) 0 (qReg 1 0) ∧ ((wQ { state := .enabled }).getQ 1).state = .enabled
    ∧ (wAq 0 none [] none).adm.state = .enabled ∧ base.adm.state ≠ .enabled
    ∧ ((wQ { state := .error }).getQ 1).state ≠ .enabled ∧ Reaches (wQ { state := .error }) 0 (qReg 1 0) ∧ Reaches base 0 0x20C := by decide +kernel
theorem witness_OwedReads :
    ((wQ { state := .enabled, strikePend := true }).getQ 1).strikePend = true ∧ ((wQ { state := .enabled, strikePend := true }).getQ 1).state = .enabled
    ∧ ((wQ { state := .enabled, strikePend := true }).getQ 1).idxRead = none ∧ ((wQ { state := .enabled, strikePend := true }).getQ 1).created = false
    ∧ ((wQ { state := .enabled, strikePend := true, idxRead := some 7 }).getQ 1).idxRead.isSome = true ∧ (inState .safe).eng.state = .safe
    ∧ ((wQ { state := .enabled, strikePend := true, created := true }).getQ 1).created = true
    ∧ ((wQ { state := .error, strikePend := true }).getQ 1).state ≠ .enabled
    ∧ (feTry (wQ { state := .enabled, strikePend := true }) (.index 1) false 0 8).isSome = true
    ∧ ({ wAq 0 none [] none with adm.strikePend := true } : State).adm.strikePend = true ∧ (wAq 0 none [] none).adm.idxRead = none
    ∧ (feTry (wAq 0 none [] none) .admIndex false (wAq 0 none [] none).adm.idxBase.toNat 8).isSome = true := by decide +kernel
/-- An answer of an index-block read with a producer index. -/
def wIdx (p : Nat) : Resp := { sts := 0#2, psn := 0#5, data := leBytes p 64 }
theorem witness_IndexBlockReturn :
    (wQ { state := .enabled, idxRead := some 7 }).runs = true ∧ ((wQ { state := .enabled, idxRead := some 7 }).getQ 1).idxRead.isSome = true
    ∧ ((wQ { state := .error, idxRead := some 7 }).getQ 1).state ≠ .enabled ∧ ((wQ { state := .error, idxRead := some 7 }).getQ 1).idxRead.isSome = true
    ∧ leNat (sliceBytes (wIdx 16).data 0 4) = 16 ∧ ringDist 16 0 0 < ringDist 16 0 16 ∧ ringDist 16 0 16 ≤ 16
    ∧ leNat (sliceBytes (wIdx 0).data 0 4) = 0 ∧ ringDist 16 0 17 > 16 ∧ leNat (sliceBytes (wIdx 17).data 0 4) = 17
    ∧ 2 * 16 ≤ leNat (sliceBytes (wIdx 32).data 0 4) ∧ ({ wIdx 0 with sts := 2#2 } : Resp).sts ≠ 0#2
    ∧ (wIdx 0).psn.getLsbD 0 = false ∧ ({ wIdx 0 with psn := 1#5 } : Resp).psn.getLsbD 0 = true := by decide +kernel
theorem witness_QueueStops :
    ((withEntry (unit1 1 [])).getQ 1).win.map (fun x => (x.pos, x.st)) = [(0, .fetched)] ∧ 1 ≠ 2 := by decide +kernel
theorem witness_EntryFetches :
    (wQ { state := .enabled, p := 2 }).runs = true ∧ mayFetch (wQ { state := .enabled, p := 2 }) 1 = true
    ∧ ((wQ { state := .enabled, p := 2 }).getQ 1).refetch = [] ∧ ((wQ { state := .enabled, p := 2 }).getQ 1).cachedAt 0 = none
    ∧ ((wQ { state := .enabled, p := 2 }).getQ 1).cachedAt 1 = none ∧ ((wQ { state := .enabled, p := 2 }).getQ 1).buffered + 2 ≤ 4
    ∧ 2 ≤ ringDist 16 0 2 ∧ 0x10000 + 128 ≠ 0x10000 + 128 * 2 ^ 4
    ∧ (feTry (wQ { state := .enabled, p := 2 }) (.entries 1 0) false 0x10000 256).isSome = true
    ∧ ((wQ { state := .enabled, p := 1, cached := true, cache := [(0, 5)] }).getQ 1).cachedAt 0 = some 5
    ∧ mayFetch (wQ { state := .enabled, p := 1, cached := true, cache := [(0, 5)] }) 1 = true
    ∧ ((wQ { state := .enabled, p := 1, cached := true, cache := [(0, 5)] }).getQ 1).buffered < 4 := by decide +kernel
/-- Queue 1 with entries 0 and 1 to be fetched again, with a window. -/
def wAgain (st : QState) (win : List Slot) : State := wQ { state := st, f := 3, p := 3, refetch := [(1, 0x10080), (2, 0x10100)], win }
theorem witness_EntryFetches_again :
    ((wAgain .enabled []).getQ 1).refetch = (1, 0x10080) :: [(2, 0x10100)] ∧ ((wAgain .enabled []).getQ 1).state = .enabled
    ∧ (wAgain .enabled []).eng.state ≠ .safe ∧ ((wAgain .enabled []).getQ 1).linkBefore 1 = false
    ∧ (feTry (wAgain .enabled []) (.entries 1 1) false 0x10080 256).isSome = true
    ∧ ((wAgain .enabled [{ frontSlot (ent 0x24 []) with st := .link }]).getQ 1).linkBefore 1 = true ∧ ((wAgain .error []).getQ 1).state ≠ .enabled := by
  decide +kernel
/-- A read of the entries at positions 31 and 0 outstanding, and an index-block read, both late. -/
def wFetch : State := wQ { state := .enabled, h := 31, f := 1, p := 1, fetches := [{ pos := 31, n := 2, addr := 0x10780, due := 0 }], idxRead := some 0 }
theorem witness_FetchReturns :
    wFetch.runs = true ∧ (wFetch.getQ 1).fetches.find? (fun x => x.pos == 31) = some { pos := 31, n := 2, addr := 0x10780, due := 0 }
    ∧ 0 ≤ wFetch.clk.gclk ∧ (wFetch.getQ 1).idxRead = some 0 ∧ (wFetch.getQ 1).state = .enabled
    ∧ ((wFetch.getQ 1).fetches.find? fun x => x.pos == 0) = none ∧ (8#5 : BitVec 5).toNat % 2 ^ (2 * 2) ≠ 0 ∧ (16#5 : BitVec 5).toNat % 2 ^ (2 * 2) = 0 := by
  decide +kernel
theorem witness_Pushes :
    (wQ { state := .enabled }).runs = true ∧ csOpen (wQ { state := .enabled }) 0 = true ∧ testShut (wQ { state := .enabled }) 0 (0x1000000 + 512 * 1) = false
    ∧ (List.replicate 256 0#8).length = 256 ∧ ((wQ { state := .enabled }).getQ 1).state = .enabled
    ∧ ringDist 16 0 0 + 2 ≤ 16 ∧ ((wQ { state := .enabled }).getQ 1).f = ((wQ { state := .enabled }).getQ 1).p
    ∧ ((wQ { state := .enabled }).getQ 1).buffered + 2 ≤ 4 
    ∧ ((wQ { state := .enabled, p := 1 }).getQ 1).f ≠ ((wQ { state := .enabled, p := 1 }).getQ 1).p ∧ ringDist 16 0 15 + 1 ≤ 16
    ∧ 16 < ringDist 16 0 15 + 2 ∧ ((wQ { state := .error }).getQ 1).state ≠ .enabled := by decide +kernel
theorem witness_QueueControl :
    1 ≤ 1 ∧ Reaches (wQ { state := .disabled }) 0 (qReg 1 0x14) ∧ ((wQ { state := .disabled }).getQ 1).state = .disabled ∧ base.eng.state ≠ .safe
    ∧ ((wQ { state := .error }).getQ 1).state = .error ∧ errorIdle (wQ { state := .error }) 1 = true
    ∧ errorIdle (wQ { state := .error, fetches := [{ pos := 0, n := 1, addr := 0, due := 0 }] }) 1 = false
    ∧ ((wQ { state := .draining }).getQ 1).state = .draining ∧ (base.getQ 1).state = .absent
    ∧ ((wQ { state := .enabled }).getQ 1).state = .enabled ∧ (inState .safe).eng.state = .safe
    ∧ (∃ x ∈ ((wQ { state := .error, win := [{ frontSlot 0 with st := .dispatched }] }).getQ 1).win, x.st = .dispatched) := by decide +kernel
theorem witness_HeadWrites :
    (wQ { state := .draining, headDue := some 1 }).runs = true ∧ ((wQ { state := .draining, headDue := some 1 }).getQ 1).headDue.isSome = true
    ∧ (wQ { state := .draining, headDue := some 1 }).eng.state ≠ .safe
    ∧ (feTry (wQ { state := .draining, headDue := some 1 }) (.head 1) true 32 16).isSome = true
    ∧ ((wQ { state := .draining, headWrs := [{ addr := 8, data := [], due := 0 }] }).getQ 1).headWrs = { addr := 8, data := [], due := 0 } :: []
    ∧ (3#2 : BitVec 2) ≠ 0#2 ∧ 0 ≤ base.clk.gclk
    ∧ (∀ w ∈ ((wQ { state := .draining, headDue := some 1 }).getQ 1).headWrs, w.addr ≠ 32)
    ∧ (∃ w ∈ ((wQ { state := .draining, headWrs := [{ addr := 32, data := [], due := 0 }] }).getQ 1).headWrs,
        w.addr = ((wQ { state := .draining }).getQ 1).idxBase + 32)
    ∧ ({ base with adm.cplWr := some { addr := 8, data := [], due := 0 }, adm.cmd := some { pos := 0, raw := 0, phase := .writing } } : State).adm.cplWr
      = some { addr := 8, data := [], due := 0 } := by decide +kernel
theorem witness_OwnerMasks :
    base.runs = true ∧ 2047 ∉ base.masks.pwr ∧ ((wQ { state := .enabled }).getQ 1).owner = 0 ∧ 0 ∉ (wQ { state := .enabled }).masks.rst
    ∧ ((wQ { state := .enabled, owner := 3 }).getQ 1).owner ≠ 0 := by decide +kernel
theorem witness_MaskedCoreSources :
    (wSig true).runs = true ∧ 0 ∉ (wSig true).masks.rst ∧ ((wSig true).getS 512).active = true ∧ ((wSig true).getS 512).core = 0
    ∧ ((wSig true).getS 1).active = false ∧ 1 ∉ (wSig true).masks.pwr ∧ ((wSig true).getS 512).core ≠ 1 := by decide +kernel
theorem witness_RealTimeBudget :
    (wQ { state := .enabled, rtBudget := 1, rtUsed := 256 }).runs = true ∧ ((wQ { state := .enabled, rtBudget := 1, rtUsed := 256 }).getQ 1).rtBudget ≠ 0
    ∧ ((wQ { state := .enabled, rtBudget := 1, rtUsed := 256 }).getQ 1).rtOut = false ∧ 256 * 1 ≤ 256 ∧ 255 < 256 * 1
    ∧ ((wQ { state := .enabled, rtBudget := 1, rtUsed := 255 }).getQ 1).rtUsed < 256 * ((wQ { state := .enabled, rtBudget := 1, rtUsed := 255 }).getQ 1).rtBudget := by
  decide +kernel

/-! ### Witnesses: the admin queue (08) -/

/-- The admin queue with a command of an opcode in progress, and queue 1 in a state. -/
def wAdm (op : Nat) (l : List (Nat × Nat)) (y : Queue) : State :=
  { base with adm.cmd := some { pos := 0, raw := ent op ((64, 1) :: l), phase := .ready }, qs := [(1, y)] }
theorem witness_AdminCommands :
    base.eng.state = .service ∧ base.eng.gHeld = false ∧ base.eng.gFaultAt = none
    ∧ (∀ op ∈ [1, 2, 3, 4, 6, 7, 9], (wAdm op [] {}).adm.cmd = some { pos := 0, raw := ent op [(64, 1)], phase := .ready } ∧ fld (ent op [(64, 1)]) 2 0 8 = op)
    ∧ fld (ent 9 [(64, 1)]) 8 0 16 = 1 ∧ fld (ent 9 []) 8 0 16 = 0
    ∧ csMeshDue (wAdm 7 [] {}) = false ∧ csMeshDue { wAdm 7 [] {} with pending := [.granInvAll 0] } = true
    ∧ ({ bind := some { target := 2 } } : TalDo).bind = some { target := 2 } := by decide +kernel
/-- Sixteen cached queues. -/
def wCaches : State := { base with qs := (List.range 16).map fun k => (k + 2, { state := .enabled, cached := true }) }
theorem witness_CreateQueue :
    ((wAdm 1 [(88, 1)] {}).getQ 1).state = .absent ∧ bitAt (ent 1 [(64, 1), (88, 1)]) 88 = true
    ∧ ((wAdm 1 [(88, 1)] {}).qs.filter fun (_, z) => z.state != .absent && z.cached).length < 16
    ∧ ((wAdm 1 [] { state := .enabled }).getQ 1).state ≠ .absent ∧ (wCaches.getQ 1).state = .absent
    ∧ 16 ≤ (wCaches.qs.filter fun (_, z) => z.state != .absent && z.cached).length := by decide +kernel
theorem witness_DestroyQueue :
    ((wAdm 2 [] { state := .disabled }).getQ 1).state = .disabled ∧ ((wAdm 2 [] { state := .draining }).getQ 1).state = .draining
    ∧ ((wAdm 2 [] { state := .error }).getQ 1).state = .error ∧ (∀ x ∈ ((wAdm 2 [] { state := .error }).getQ 1).win, x.st ≠ .dispatched)
    ∧ (∀ f ∈ (wAdm 2 [] { state := .error }).flights, f.q ≠ 1) := by decide +kernel
/-- A read of the entries at positions 0 and 1 that is out. -/
def fetch01 : Fetch := { pos := 0, n := 2, addr := 0x10000, due := 0 }
theorem witness_InvalidateEntries :
    ((wAdm 6 [(80, 15), (96, 1)] { state := .enabled, cached := true, k := 4 }).getQ 1).cached = true
    ∧ fld (ent 6 [(64, 1), (80, 15), (96, 1)]) 10 0 16 + fld (ent 6 [(64, 1), (80, 15), (96, 1)]) 12 0 16 ≤ 2 ^ 4
    ∧ 2 ^ 4 < fld (ent 6 [(64, 1), (80, 15), (96, 2)]) 10 0 16 + fld (ent 6 [(64, 1), (80, 15), (96, 2)]) 12 0 16
    ∧ ((wAdm 6 [] { state := .enabled, k := 4 }).getQ 1).cached = false
    ∧ ((wAdm 6 [(80, 0), (96, 1)] { state := .enabled, cached := true, k := 4, win := [frontSlot 0] }).getQ 1).win = [frontSlot 0]
    ∧ (frontSlot 0).st = .fetched ∧ (0 ≤ (frontSlot 0).pos % 2 ^ 4 ∧ (frontSlot 0).pos % 2 ^ 4 < 0 + 1)
    ∧ fetch01.n = 2 ∧ fetch01 ∈ ((wAdm 6 [(80, 1), (96, 1)] { state := .enabled, cached := true, k := 4, fetches := [fetch01] }).getQ 1).fetches
    ∧ (1 ≤ (0 + 1) % (2 * 2 ^ 4) % 2 ^ 4 ∧ (0 + 1) % (2 * 2 ^ 4) % 2 ^ 4 < 1 + 1) := by decide +kernel

/-- LOAD_CODEBOOK ready, or reading; SHOOTDOWN_MAP ready; an invalidation with nothing left to await. -/
def wCb (raw : Nat) (phase : CmdPhase) : State :=
  { base with adm.cmd := some { pos := 0, raw, phase }, inv := [{ itag := some 31, range := { all := true, lo := 0, hi := 0 }, reads := [], writes := [] },
                                                                { itag := none, range := { all := true, lo := 0, hi := 0 }, reads := [], writes := [] }]
              bay := [(1, { pwr := .nap })] }
theorem witness_CodebookLoadAndShootdown :
    fld (ent 5 [(64, 1023)]) 2 0 8 = 5 ∧ cribInflight (wCb (ent 5 [(64, 1023)]) .ready) 1023 = 0
    ∧ (feTry { wCb (ent 5 [(64, 1023)]) .ready with crib.loading := some 1023 } .codebook false 0 512).isSome = true
    ∧ (wCb (ent 5 []) (.reading 10000000)).adm.cmd = some { pos := 0, raw := ent 5 [], phase := .reading 10000000 }
    ∧ 10000000 ≤ (wCb (ent 5 []) (.reading 10000000)).clk.gclk ∧ fld (ent 8 []) 2 0 8 = 8
    ∧ ((wCb 0 .ready).inv.filter fun v => v.itag.isSome).length < 32
    ∧ (wCb 0 .ready).inv[0]? = some { itag := some 31, range := { all := true, lo := 0, hi := 0 }, reads := [], writes := [] }
    ∧ (wCb 0 .ready).inv[1]? = some { itag := none, range := { all := true, lo := 0, hi := 0 }, reads := [], writes := [] }
    ∧ ((wCb 0 .ready).getB 1).pwr = .nap ∧ ¬ (((wCb 0 .ready).getB 0).pwr = .nap ∨ ((wCb 0 .ready).getB 0).pwr = .dormant) := by decide +kernel
/-- The bytes of a codebook came in the safe state, and are kept till service. -/
theorem witness_CodebookHeld :
    ({ wCb (ent 5 []) (.reading 10000000) with eng.state := .safe } : State).eng.state = .safe ∧ (wCb (ent 5 []) (.read false [1#8])).eng.state = .service
    ∧ (wCb (ent 5 []) (.read false [1#8])).adm.cmd = some { pos := 0, raw := ent 5 [], phase := .read false [1#8] } := by decide +kernel
/-- A queued entry that names crib slot 0. -/
theorem witness_CodebookBusy : cribInflight (withEntry (unit1 4 [(42, 8)])) 0 = 1 := by decide +kernel

theorem witness_AdminEnabling :
    Reaches base 0 0x208 ∧ 4 ≤ (4#32 : Word).toNat % 16 ∧ (12#32 : Word).toNat % 16 ≤ 12 ∧ base.adm.ringLog2 = 0 ∧ base.eng.state = .service
    ∧ base.adm.cmd = none ∧ (inState .test).eng.state ≠ .service ∧ (inState .test).eng.state ≠ .safe ∧ Reaches (inState .test) 0 0x208
    ∧ (wAq 1 none [] none).adm.ringLog2 ≠ 0 ∧ (3#32 : Word).toNat % 16 < 4 ∧ 12 < (13#32 : Word).toNat % 16 := by decide +kernel
theorem witness_AdminFetching :
    ({ wAq 1 none [] none with adm.zeroDue := true } : State).adm.zeroDue = true ∧ (wAq 1 none [] none).adm.idxWr = []
    ∧ (∃ w ∈ (wAq 1 none [{ addr := 32, data := [], due := 0 }] none).adm.idxWr, w.addr = (wAq 1 none [] none).adm.idxBase.toNat + 32) ∧ (wAq 1 none [] none).eng.state ≠ .safe
    ∧ (feTry { wAq 1 none [] none with adm.zeroDue := true } .admIndexWr true 32 8).isSome = true
    ∧ admMayFetch (wAq 0 none [] none) = true ∧ ringDist 16 0 16 = 16 ∧ admMayFetch (wAq 1 none [] none) = true ∧ ringDist 16 1 16 ≠ 16
    ∧ (wAq 1 none [] none).adm.fetch = none ∧ 0 < (wAq 1 none [] none).adm.size
    ∧ (feTry (wAq 1 none [] none) .admCmd false ((wAq 1 none [] none).adm.ringBase.toNat + 64 * (0 % 16)) 64).isSome = true
    ∧ ({ wAq 1 none [] none with adm.fetch := some 0 } : State).runs = true ∧ ({ wAq 1 none [] none with adm.fetch := some 0 } : State).adm.fetch = some 0
    ∧ 0 ≤ base.clk.gclk ∧ (wIdx 0).sts = 0#2 ∧ (wIdx 0).psn.getLsbD 0 = false ∧ ({ wIdx 0 with psn := 1#5 } : Resp).psn.getLsbD 0 = true := by decide +kernel
theorem witness_AdminCompletions :
    (wAq 1 (some { pos := 0, raw := 0, phase := .done 3 0 }) [] none).adm.cmd = some { pos := 0, raw := 0, phase := .done 3 0 }
    ∧ (wAq 1 none [] none).eng.gFaultAt = none ∧ (wAq 1 none [] none).eng.state ≠ .safe
    ∧ (feTry (wAq 1 (some { pos := 0, raw := 0, phase := .done 3 0 }) [] none) .admCpl true (0 + 16 * (16 % 16)) 16).isSome = true
    ∧ (wAq 1 (some { pos := 0, raw := 0, phase := .written }) [] none).adm.cmd = some { pos := 0, raw := 0, phase := .written }
    ∧ (wAq 1 (some { pos := 0, raw := 0, phase := .written }) [] none).adm.idxWr = []
    ∧ (feTry (wAq 1 (some { pos := 0, raw := 0, phase := .written }) [] none) .admIndexWr true 32 8).isSome = true
    ∧ (wAq 1 (some { pos := 0, raw := 0, phase := .indexing }) [{ addr := 32, data := [], due := 0 }] none).adm.idxWr = { addr := 32, data := [], due := 0 } :: []
    ∧ (wAq 1 none [{ addr := 32, data := [], due := 0 }] none).adm.cmd = none ∧ (wAq 1 none [] none).adm.cplWr = none ∧ 0 ≤ base.clk.gclk := by
  decide +kernel
theorem witness_AdminIndexReads :
    (wAq 1 none [] (some 5)).runs = true ∧ (wAq 1 none [] (some 5)).adm.idxRead = some 5 ∧ 5 ≤ (wAq 1 none [] (some 5)).clk.gclk
    ∧ ({ base with adm.idxRead := some 5 } : State).adm.state ≠ .enabled
    ∧ (wAq 1 none [] (some 5)).adm.state = .enabled ∧ 2 * 16 ≤ leNat (sliceBytes (wIdx 32).data 0 4)
    ∧ ringDist 16 0 1 < ringDist 16 0 17 ∧ 16 < ringDist 16 0 17
    ∧ leNat (sliceBytes (wIdx 16).data 0 4) < 2 * 16 ∧ ringDist 16 0 16 ≤ 16 ∧ leNat (sliceBytes (wIdx 16).data 4 4) < 2 * 16 := by decide +kernel

/-! ### Witnesses: program control (09) -/

/-- A READS fence dispatched at position 1 behind an entry of a state, and a LINK to be taken. -/
def wBehind (st st' : SlotSt) (raw : Nat) : State :=
  base.setQ 1 { state := .enabled, k := 4, p := 2, f := 2, win := [{ pos := 0, addr := 0, raw := unit1 1 [], st, tick := 0 }, { pos := 1, addr := 128, raw, st := st', tick := 0 }] }
theorem witness_ControlEntries :
    base.runs = true ∧ frontIs (withEntry (ent 0x25 [])) 1 .nop = some (frontSlot (ent 0x25 []))
    ∧ frontIs (withEntry (ent 0x20 [])) 1 .fence = some (frontSlot (ent 0x20 [])) ∧ eFenceKind (ent 0x20 []) = 0
    ∧ frontIs (withEntry (ent 0x20 [(64, 1)])) 1 .fence = some (frontSlot (ent 0x20 [(64, 1)])) ∧ eFenceKind (ent 0x20 [(64, 1)]) = 1
    ∧ frontIs (withEntry (ent 0x20 [(64, 2)])) 1 .fence = some (frontSlot (ent 0x20 [(64, 2)])) ∧ eFenceKind (ent 0x20 [(64, 2)]) = 2
    ∧ (∀ z ∈ ((withEntry (ent 0x20 [(64, 2)])).getQ 1).before 0, z.st = .retired)
    ∧ ((withEntry (ent 0x20 [(64, 2)])).getQ 1).headAt = none
    ∧ (({ state := .enabled, headAt := some 10000000 } : Queue).headAt = some base.clk.gclk) := by decide +kernel
theorem witness_ControlEntries_fences :
    (frontIs (wBehind .dispatched .fetched (ent 0x20 [(64, 2)])) 1 .fence).isSome = true
    ∧ ((wBehind .dispatched .fetched (ent 0x20 [(64, 2)])).getQ 1).before 1 = [{ pos := 0, addr := 0, raw := unit1 1 [], st := .dispatched, tick := 0 }]
    ∧ ((wBehind .retired .dispatched (ent 0x20 [(64, 1)])).getQ 1).slotAt 1
      = some { pos := 1, addr := 128, raw := ent 0x20 [(64, 1)], st := .dispatched, tick := 0 }
    ∧ opOf (ent 0x20 [(64, 1)]) = some .fence ∧ (∀ z ∈ ((wBehind .retired .dispatched (ent 0x20 [(64, 1)])).getQ 1).before 1, z.st = .retired)
    ∧ ((wBehind .dispatched .link (ent 0x24 [])).getQ 1).win.find? (fun z => z.st == .link)
      = some { pos := 1, addr := 128, raw := ent 0x24 [], st := .link, tick := 0 }
    ∧ (∀ z ∈ ((wBehind .dispatched .link (ent 0x24 [])).getQ 1).win, z.pos = 1 → z.st = .link)
    ∧ ((wBehind .dispatched .link (ent 0x24 [])).getQ 1).state = .enabled := by decide +kernel
/-- What EntryRetires says of an entry at the head, and of one behind it. -/
theorem witness_EntryRetires :
    ((withEntry (unit1 1 [])).getQ 1).win = frontSlot (unit1 1 []) :: [] ∧ (frontSlot (unit1 1 [])).pos = ((withEntry (unit1 1 [])).getQ 1).h
    ∧ (((frontSlot (unit1 1 [])) :: []).map (·.pos)).Nodup
    ∧ (∃ z ∈ ((wBehind .dispatched .fetched 0).getQ 1).win.head?, z.st ≠ .retired ∧ z.pos ≠ 1) := by decide +kernel
/-- The front entry of withEntry over tally 5 of target 2, with a fire count. -/
def wSignal (raw fire : Nat) : State := ((withEntry raw).setT 5 { target := 2, fire }).fresh
theorem witness_SignalAndWaits :
    frontIs (wSignal (ent 0x21 [(64, 5), (80, 65535), (96, 2)]) 0) 1 .signal = some (frontSlot (ent 0x21 [(64, 5), (80, 65535), (96, 2)]))
    ∧ ((wSignal 0 0).getT (fld (ent 0x21 [(64, 5), (80, 65535), (96, 2)]) 8 0 14)).target ≠ 0
    ∧ fld (ent 0x21 [(64, 5), (80, 65535), (96, 2)]) 10 0 16 ≠ 0 ∧ fld (ent 0x21 [(64, 5), (80, 65535), (96, 2)]) 12 0 2 ≠ 3
    ∧ (base.getT (fld (ent 0x21 [(64, 6), (80, 1)]) 8 0 14)).target = 0 ∧ (frontIs (withEntry (ent 0x21 [(64, 6), (80, 1)])) 1 .signal).isSome = true
    ∧ frontIs (wSignal (ent 0x22 [(64, 5), (80, 1)]) 1) 1 .await = some (frontSlot (ent 0x22 [(64, 5), (80, 1)]))
    ∧ (((wSignal 0 1).atStart.getT 5).fire + 65536 - 1) % 65536 < 32768 ∧ 0 < base.clk.gclk
    ∧ 32768 ≤ (((wSignal 0 0).atStart.getT 5).fire + 65536 - 1) % 65536 := by decide +kernel
/-- A TICKWAIT at the front that has seen ticks. -/
def wTickwait (raw waited : Nat) (go : Bool) : State :=
  base.setQ 1 { state := .enabled, k := 4, p := 1, f := 1, win := [{ frontSlot raw with waited, go }] }
theorem witness_Tickwait :
    frontIs (wTickwait (ent 0x23 [(96, 1)]) 1 false) 1 .tickwait = some { frontSlot (ent 0x23 [(96, 1)]) with waited := 1, go := false }
    ∧ eAligned (ent 0x23 [(96, 1)]) = false ∧ fld (ent 0x23 [(96, 1)]) 12 0 32 ≤ 1 ∧ base.tick.lastTick < base.clk.gclk
    ∧ fld (ent 0x23 []) 12 0 32 = 0 ∧ (frontIs (withEntry (ent 0x23 [(96, 1)])) 1 .tickwait).isSome = true ∧ 0 < fld (ent 0x23 [(96, 1)]) 12 0 32
    ∧ (frontIs (wTickwait (ent 0x23 [(64, 1), (96, 5), (128, 4)]) 0 true) 1 .tickwait).isSome = true
    ∧ eAligned (ent 0x23 [(64, 1), (96, 5), (128, 4)]) = true
    ∧ ((withEntry (ent 0x23 [(96, 1)])).getQ 1).front = some (frontSlot (ent 0x23 [(96, 1)])) ∧ opOf (ent 0x23 [(96, 1)]) = some .tickwait := by
  decide +kernel

/-! ### Witnesses: dispatch, records, answers (07) -/

/-- A flight whose one part waits on bay 0, its entry fetched, with port 0 in a state. -/
def wWaits (raw : Nat) (p : PortState) : State :=
  { base with nextId := 1, lnk.port := [(0, { state := p })], bay := [(0, { waits := [(0, 0)], ctxs := [0] })]
              flights := [{ id := 0, q := 1, pos := 0, raw, parts := [{ bay := 0 }] }]
              qs := [(1, { state := .enabled, k := 4, p := 1, f := 1, win := [{ pos := 0, addr := 0, raw, st := .fetched, tick := 0 }] })] }
theorem witness_PartsDispatch :
    (wWaits (unit1 0x10 []) .up).runs = true ∧ (wWaits (unit1 0x10 []) .up).eng.state ≠ .safe ∧ 0 < (wWaits (unit1 0x10 []) .up).cfg.bays
    ∧ waitHead (wWaits (unit1 0x10 []) .up) 0 = some (0, 0) ∧ ((wWaits (unit1 0x10 []) .up).flightOf 0).isSome = true
    ∧ ((wWaits (unit1 0x10 []) .up).getB 0).pwr = .active ∧ ((wWaits (unit1 0x10 []) .up).getB 0).waking = none
    ∧ ((wWaits (unit1 0x10 []) .up).getB 0).faulted = false ∧ ((wWaits (unit1 0x10 []) .up).getB 0).ctxs.length < 128
    ∧ ((wWaits (unit1 0x10 []) .up).getB 0).loft + 0 ≤ 1048576 ∧ opOf (unit1 0x10 []) ≠ some .mcast
    ∧ ((wWaits (unit1 0x10 []) .up).flightOf 0).map (·.parts[0]?) = some (some { bay := 0 })
    ∧ ((wWaits (unit1 0x10 []) .up).flightOf 0).bind (·.port) = some 0 ∧ ((wWaits (unit1 0x10 []) .up).getP 0).state = .up := by decide +kernel
theorem witness_SendPortNotUp :
    waitHead (wWaits (unit1 0x10 []) .fenced) 0 = some (0, 0)
    ∧ ((wWaits (unit1 0x10 []) .fenced).flightAt 1 0) = (wWaits (unit1 0x10 []) .fenced).flightOf 0
    ∧ (((wWaits (unit1 0x10 []) .fenced).getQ 1).slotAt 0).isSome = true
    ∧ bayTakes ((wWaits (unit1 0x10 []) .fenced).getB 0) 0 = true
    ∧ ((wWaits (unit1 0x10 []) .fenced).flightOf 0).bind (·.port) = some 0 ∧ ((wWaits (unit1 0x10 []) .fenced).getP 0).state ≠ .up := by decide +kernel
/-- A PACK with a winnow record whose part has ended. -/
def packDone : Flight := { flight (unit1 4 [(34, 1), (880, 0x3000)]) with stage := .writing, parts := [{ bay := 0, ctx := some 0, gone := true }] }
theorem witness_WinnowRecord :
    (inFlight packDone).runs = true ∧ (inFlight packDone).eng.state ≠ .safe ∧ (inFlight packDone).flightAt 1 0 = some packDone
    ∧ (inFlight packDone).flightOf packDone.id = some packDone ∧ packDone.stage = .writing ∧ eWin packDone.raw = true ∧ packDone.cut = false
    ∧ packDone.parts ≠ [] ∧ (∀ p ∈ packDone.parts, p.gone = true) ∧ eScaleRule packDone.raw = 0 := by decide +kernel
/-- A MOVE that has ended, of each kind. -/
def moveDone (bad cut : Bool) : Flight := { flight (unit1 1 [(974, 1)]) with stage := .complete, bad, cut }
theorem witness_CompletionArrivals :
    ∀ b ∈ [false, true], ∀ c ∈ [false, true],
      (inFlight (moveDone b c)).runs = true ∧ (inFlight (moveDone b c)).flightAt 1 0 = some (moveDone b c)
      ∧ (inFlight (moveDone b c)).flightOf 0 = some (moveDone b c) ∧ (moveDone b c).stage = .complete ∧ (moveDone b c).recd = (moveDone b c).faults.length
      ∧ progressTotal (moveDone b c).raw ≤ (moveDone b c).prog ∧ (((inFlight (moveDone b c)).getQ 1).slotAt 0).map (·.st) = some .dispatched
      ∧ (∀ x ∈ (inFlight (moveDone b c)).lnk.bins, x.home ≠ some 0) ∧ eCen (moveDone b c).raw = true := by decide +kernel
/-- A MOVE with a progress pulse for each slice, its writes issued; one write still outstanding in the second state. -/
def moveProg : Flight := { flight (unit1 1 [(992, 1)]) with stage := .writing }
def wProg : State := { inFlight moveProg with writes := [{ bay := 0, tag := 0, flight := 0, pa := 0x2000
                                                           req := { side := .dest, ord := 0, elem := 0, part := 0, va := 0x2000, data := [0#8], psn := 0#5 } }] }
theorem witness_ProgressArrivals :
    (inFlight moveProg).runs = true ∧ (inFlight moveProg).flightAt 1 0 = some moveProg ∧ moveProg.cut = false ∧ fld moveProg.raw 120 32 16 ≠ 0
    ∧ moveProg.prog < (eSrc moveProg.raw).cnt3 / fld moveProg.raw 120 32 16 ∧ (∀ w ∈ (inFlight moveProg).writes, w.flight ≠ 0)
    ∧ (∃ w ∈ wProg.writes, w.flight = moveProg.id ∧ w.req.side ≠ .other ∧ w.req.elem < 1) ∧ wProg.flightAt 1 0 = some moveProg := by decide +kernel

/-- A MOVE with its read outstanding on tag 2047 of bay 0, its part live or cut off. -/
def rd0 : RdReq := { side := .source, grp := 0, ord := 0, elem := 0, part := 0, va := 0x1000, len := 1 }
def wRead (cut : Bool) (rest : List Piece) : State :=
  { inFlight { flight (unit1 1 []) with parts := [{ bay := 0, ctx := some 0, cut }] } with
    reads := [{ bay := 0, tag := 2047, flight := 0, req := rd0, pa := 0x1000, rest }] }
theorem witness_ReadsReturn :
    (wRead false []).runs = true
    ∧ (wRead false []).reads.find? (fun x => x.bay == 0 && x.tag == 2047 && !x.wait && x.beats.isEmpty)
      = some { bay := 0, tag := 2047, flight := 0, req := rd0, pa := 0x1000 }
    ∧ ((wRead false []).flightOf 0).map (fun f => f.parts[0]?) = some (some { bay := 0, ctx := some 0, cut := false })
    ∧ ((wRead true []).flightOf 0).map (fun f => f.parts[0]?) = some (some { bay := 0, ctx := some 0, cut := true })
    ∧ (wRead false [{ va := 0x1100, len := 1, pa := 0x1100 }]).reads.map (·.rest) = [{ va := 0x1100, len := 1, pa := 0x1100 } :: []]
    ∧ (2#2 : BitVec 2) ≠ 0#2 := by decide +kernel
/-- A fill of line 5 of slice 0 that has had beats or not, with a read that waits for beat 0 or none. -/
def wFill (b0 : Option Resp) (noAlloc wait : Bool) : State :=
  { inFlight (flight (unit1 1 [])) with
    gran := { stkBase := 0#64, stkSize := 0x40000000#64, fills := [{ slice := 0, line := 5, owner := 1, beat0 := b0, noAlloc }] }
    reads := if wait then [{ bay := 0, tag := 0, flight := 0, req := rd0, pa := 0xA00, beats := [(0, 5, 0)] }] else [] }
theorem witness_LineFills :
    (wFill none false false).runs = true ∧ fillOf (wFill none false false) 0 5 = some { slice := 0, line := 5, owner := 1 }
    ∧ (∀ z ∈ (wFill none false false).reads, z.beats = [])
    ∧ (wFill none false true).reads.filter (fun z => z.beats.contains (0, 5, 0))
      = [{ bay := 0, tag := 0, flight := 0, req := rd0, pa := 0xA00, beats := [(0, 5, 0)] }]
    ∧ decodePa (wFill none false true) 0xA00 = some (0, 0xA00) ∧ (beatParts 0xA00 1).find? (fun p => p.1 == 5 && p.2.1 == 0) = some (5, 0, 0, 1)
    ∧ fillOf (wFill (some (wIdx 0)) false false) 0 5 = some { slice := 0, line := 5, owner := 1, beat0 := some (wIdx 0) } ∧ (wIdx 0).sts = 0#2
    ∧ (fillOf (wFill (some (wIdx 0)) true false) 0 5).map (·.noAlloc) = some true := by decide +kernel
/-- A released lock whose read has returned, and every write tag of its bay in use. -/
def owed0 : Lock := { bay := 0, flight := 0, part := 0, granule := 0x20, va := 0x20, data := some [1#8] }
def wOwed (full : Bool) : State :=
  { base with
    owed := [owed0, { owed0 with data := none }]
    writes := if full then (List.range 2048).map fun tag => { bay := 0, tag, flight := 0, pa := 0
                                                              req := { side := .dest, ord := 0, elem := 0, part := 0, va := 0, data := [], psn := 0#5 } }
      else [] }
set_option maxRecDepth 8000 in
theorem witness_ReleasedGranules :
    (wOwed false).owed.filter (·.data.isSome) = [owed0] ∧ owed0.data = some [1#8] ∧ decodePa (wOwed false) (256 * 0x20) = none
    ∧ 0 < 2048 ∧ 0 ∉ ((wOwed false).writes.filter fun w => w.bay == 0).map (·.tag)
    ∧ ((wOwed true).writes.filter fun w => w.bay == 0).map (·.tag) = List.range 2048 := by decide +kernel
theorem witness_WritesAnswered :
    wProg.runs = true ∧ (wProg.writes.find? fun x => x.bay == 0 && x.tag == 0 && !x.wait).isSome = true ∧ (wProg.getB 0).faulted = false
    ∧ wProg.flightOf 0 = some moveProg ∧ decodePa wProg 0x2000 = none
    ∧ ({ wProg with bay := [(0, { faulted := true })] } : State).runs = true ∧ (({ wProg with bay := [(0, { faulted := true })] } : State).getB 0).faulted = true
    ∧ (decodePa { wProg with gran := { stkSize := 0x40000000#64 } } 0x2000).isSome = true
    ∧ (lineParts 0x2000 1 ≠ []) := by
  decide +kernel

/-- A MOVE on bay 0 that waits for the page of its read, or of its write. -/
def wr0 : WrReq := { side := .dest, ord := 0, elem := 0, part := 0, va := 0x2000, data := [0#8], psn := 0#5 }
def wMiss (xl : List (Nat × Nat)) : State :=
  { inFlight { flight (unit1 1 []) with todo := [rd0] } with bay := [(0, { ctxs := [0], xl })] }
theorem witness_Translations :
    (wMiss []).runs = true ∧ (wMiss []).eng.state ≠ .safe ∧ waitsForPage (wMiss []) 0 (0x1000 / 4096 * 4096) = true
    ∧ bayAwake ((wMiss []).getB 0) = true ∧ (∀ x ∈ ((wMiss []).getB 0).xl, x.2 ≠ 0x1000 / 4096 * 4096) ∧ ((wMiss []).getB 0).xl.length < 32
    ∧ ((wMiss [(31, 0x1000)]).getB 0).xl.find? (fun x => x.1 == 31) = some (31, 0x1000)
    ∧ readAsks (wMiss []) { flight (unit1 1 []) with todo := [rd0] } rd0 = true
    ∧ writeAsks { inFlight { flight (unit1 1 []) with wtodo := [wr0] } with bay := [(0, { ctxs := [0] })] } { flight (unit1 1 []) with wtodo := [wr0] } wr0 = true
    ∧ (∀ r ∈ (flight (unit1 1 [])).todo, readAsks (wMiss []) (flight (unit1 1 [])) r = false) ∧ ({ flight (unit1 1 []) with todo := [rd0] } : Flight).bayOf rd0.part = 0
    ∧ 0x1000 ≤ rd0.va ∧ rd0.va + rd0.len ≤ 0x1000 + 4096 ∧ 0 < rd0.len
    ∧ ({ flight (unit1 1 []) with wtodo := [wr0] } : Flight).wtodo = [wr0] ∧ 0x2000 ≤ wr0.va ∧ wr0.data ≠ [] ∧ (flight 0).stage ≠ .recording := by decide +kernel

/-! ### Witnesses: data and link instructions (02 to 07) -/

/-- Ready, from its parts. -/
theorem ready_of {s : State} {q pos : Nat} {o : Op} {st : Stage} {f : Flight}
    (h : s.runs = true ∧ s.eng.state ≠ .safe ∧ (s.flights.map (·.id)).Nodup ∧ s.flightAt q pos = some f ∧ opOf f.raw = some o ∧ f.stage = st
      ∧ f.parts ≠ [] ∧ (∀ p ∈ f.parts, p.cut = false ∧ p.ctx ≠ some 128) ∧ f.cut = false ∧ f.todo = [] ∧ f.wtodo = []
      ∧ ∀ r ∈ s.reads, r.flight ≠ f.id) : Ready s q pos o st f :=
  ⟨h.1, h.2.1, h.2.2.1, h.2.2.2.1, h.2.2.2.2.1, h.2.2.2.2.2.1, h.2.2.2.2.2.2.1, h.2.2.2.2.2.2.2.1, h.2.2.2.2.2.2.2.2.1, h.2.2.2.2.2.2.2.2.2.1,
   h.2.2.2.2.2.2.2.2.2.2.1, h.2.2.2.2.2.2.2.2.2.2.2⟩

/-- An entry's front state with a port 0 UP, or an MCAST whose list is read. -/
def wPlace (raw : Nat) (list : Option (List Byte)) : State :=
  { base with lnk.port := [(0, { state := .up })]
              qs := [(1, { state := .enabled, k := 4, p := 1, f := 1, win := [{ frontSlot raw with list }] })] }
/-- A list of one local receiver. -/
def locList : List Byte := leBytes 0x3000 16
theorem witness_InstructionsPlaced :
    (wPlace (unit1 1 []) none).runs = true ∧ ((wPlace (unit1 1 []) none).getQ 1).slotAt 0 = some { frontSlot (unit1 1 []) with list := none }
    ∧ (wPlace (unit1 1 []) none).flightAt 1 0 = none
    ∧ (∀ x ∈ [(1, Op.move), (2, .fill), (3, .cast), (4, .pack), (5, .unpack), (6, .gather), (7, .scatter), (8, .scatterAdd), (9, .contract),
              (0x10, .linkput), (0x11, .linkreduce), (0x12, .mcast)],
        mayPlace (wPlace (unit1 x.1 []) none) 1 0 x.2 = true ∧ opOf (unit1 x.1 []) = some x.2) := by decide +kernel
/-- Two queues with entries at the front, the second of the greater class. -/
def wTwo : State :=
  (wPlace (unit1 1 []) none).setQ 2 { state := .enabled, k := 4, p := 1, f := 1, cls := 3, win := [{ frontSlot (unit1 1 []) with at_ := 7 }] }
theorem witness_InstructionsPlaced_order :
    2 ≠ 1 ∧ 2 ∈ wTwo.qs.keys ∧ competes wTwo 2 = some { frontSlot (unit1 1 []) with at_ := 7 } ∧ rtIn (wTwo.getQ 2) = rtIn (wTwo.getQ 1)
    ∧ (wTwo.getQ 1).cls < (wTwo.getQ 2).cls ∧ rtIn ({ rtBudget := 1 } : Queue) = true
    ∧ (wTwo.getQ 1).front = some { frontSlot (unit1 1 []) with list := none }
    ∧ placeBay (wWaits (unit1 1 []) .up) 7 = some 1 ∧ ((wWaits (unit1 1 []) .up).getB 2).pwr = .active := by decide +kernel
theorem witness_InstructionsPlaced_links :
    ((wPlace (unit1 0x10 []) none).getP (eLport (unit1 0x10 []))).state = .up ∧ eHome (unit1 0x11 []) = false
    ∧ ({ frontSlot 0 with local_ := true } : Slot).local_ = true ∧ ({ frontSlot 0 with list := some locList } : Slot).listBad = false ∧ eHome (unit1 0x11 [(912, 1)]) = true
    ∧ (∃ r ∈ receivers locList, r.remote = false) ∧ eCt (unit1 1 []) = false
    ∧ (∀ g ∈ base.flights, g.id ≠ base.nextId) ∧ 63 < base.cfg.bays ∧ (base.getB 63).faulted = false
    ∧ placeBay base 0 = some 0 ∧ (base.getB 0).pwr = .active ∧ (∀ w ∈ (base.getB 0).waits, w.1 ≠ 0) := by decide +kernel

/-- Each opcode whose reads have landed in the first stage, and those with a second. -/
theorem witness_Ready :
    Ready (inFlight (flight (unit1 1 []))) 1 0 .move .first (flight (unit1 1 []))
    ∧ Ready (inFlight (flight (unit1 2 []))) 1 0 .fill .first (flight (unit1 2 []))
    ∧ Ready (inFlight (flight (unit1 3 []))) 1 0 .cast .first (flight (unit1 3 []))
    ∧ Ready (inFlight (flight (unit1 4 []))) 1 0 .pack .first (flight (unit1 4 []))
    ∧ Ready (inFlight (flight (unit1 5 []))) 1 0 .unpack .first (flight (unit1 5 [])) :=
  ⟨ready_of (by decide +kernel), ready_of (by decide +kernel), ready_of (by decide +kernel), ready_of (by decide +kernel), ready_of (by decide +kernel)⟩
theorem witness_MoveFillCast :
    eSrcFmt (flight (unit1 3 [])).raw = eDstFmt (flight (unit1 3 [])).raw
    ∧ eSrcFmt (flight (unit1 3 [(47, 3)])).raw ≠ eDstFmt (flight (unit1 3 [(47, 3)])).raw
    ∧ opOf (unit1 3 [(47, 3)]) = some .cast ∧ (inFlight (flight (unit1 3 [(47, 3)]))).flightAt 1 0 = some (flight (unit1 3 [(47, 3)])) := by decide +kernel
/-- Units of a PACK of f16 into e2m1: one with a NaN, one of zeros, one poisoned, one of 3.0, under each rule. -/
theorem witness_PackResults :
    eScaleRule (ent 4 [(42, 1), (47, 7)]) = 0 ∧ eScaleRule (ent 4 [(42, 1), (47, 7), (37, 1)]) = 1 ∧ eScFmt (ent 4 [(42, 1), (47, 7), (37, 1)]) = 0
    ∧ eSrcFmt (ent 4 [(42, 1), (47, 7)]) = 1 ∧ valFinite (valueOf 1 0x7E00) = false ∧ valFinite (valueOf 1 0x4200) = true
    ∧ (unitMag 1 [{ code := 0 }]).1 = 0 ∧ (unitMag 1 [{ code := 0x4200, psn := true }]).1 = 0 ∧ (unitMag 1 [{ code := 0x4200 }]).1 ≠ 0
    ∧ ([({ code := 5, psn := true } : Elem)][0]? = some { code := 5, psn := true }) := by decide +kernel
theorem witness_GatherScatter :
    Ready (inFlight (flight (unit1 6 []))) 1 0 .gather .first (flight (unit1 6 []))
    ∧ Ready (inFlight { flight (unit1 6 []) with stage := .second }) 1 0 .gather .second { flight (unit1 6 []) with stage := .second }
    ∧ Ready (inFlight (flight (unit1 7 []))) 1 0 .scatter .first (flight (unit1 7 [])) :=
  ⟨ready_of (by decide +kernel), ready_of (by decide +kernel), ready_of (by decide +kernel)⟩
theorem witness_GatherScatter_index :
    0 < (eSrc (unit1 6 [(880, 1)])).rows ∧ eIdxLim (unit1 6 [(880, 1)]) = 1
    ∧ ([({ x := 0xFFFFFFFF, psn := false } : Idx), { x := 1, psn := false }][1]? = some { x := 1, psn := false })
    ∧ (1 : Nat) ≠ 0xFFFFFFFF ∧ (0 : Nat) < 1 := by decide +kernel

/-- A SCATTER_ADD of one 8-bit element at index 0 of an index array at 0x4000, its bytes landed up to a stage. -/
def addRaw : Nat := unit1 8 [(816, 0x4000), (880, 1)]
def landIdx : Landed := { side := .index, grp := 0, va := 0x4000, data := [0#8, 0#8, 0#8, 0#8], psn := 0#5 }
def landSrc : Landed := { side := .source, grp := 0, va := 0x1000, data := [0#8], psn := 0#5 }
def landOld : Landed := { side := .dest, grp := 0x20, va := 0x2000, data := List.replicate 256 0#8, psn := 0#5 }
def addFlight (seq : Nat) (l : List Landed) : Flight := { flight addRaw with stage := .second, seq, land := landIdx :: landSrc :: l }
def wAdd (seq : Nat) (l : List Landed) : State :=
  { inFlight (addFlight seq l) with locks := [{ bay := 0, flight := 0, part := 0, granule := 0x20, va := 0x20 }] }
theorem witness_ScatterAdd :
    Ready (inFlight (flight addRaw)) 1 0 .scatterAdd .first (flight addRaw)
    ∧ Ready (wAdd 1 []) 1 0 .scatterAdd .second (addFlight 1 []) ∧ Ready (wAdd 0 []) 1 0 .scatterAdd .second (addFlight 0 [])
    ∧ Ready (wAdd 0 [landOld]) 1 0 .scatterAdd .second (addFlight 0 [landOld]) :=
  ⟨ready_of (by decide +kernel), ready_of (by decide +kernel), ready_of (by decide +kernel), ready_of (by decide +kernel)⟩
theorem witness_ScatterAddSteps :
    nextAdd addRaw (eDst addRaw) (rowIndices addRaw (eDst addRaw) (fun _ => 0) (addFlight 1 []).land) 1 = none
    ∧ nextAdd addRaw (eDst addRaw) (rowIndices addRaw (eDst addRaw) (fun _ => 0) (addFlight 0 []).land) 0 = some (0, 0x2000)
    ∧ fencedWrites (wAdd 0 []) (addFlight 0 []) = false ∧ 0 < eDstW addRaw / 8
    ∧ (granulesOf 0x2000 1).find? (fun g => !(addFlight 0 []).land.any fun l => l.side == .dest && l.grp == g) = some 0x20
    ∧ (∀ g ∈ granulesOf 0x2000 1, (∃ l ∈ (addFlight 0 [landOld]).land, l.side = .dest ∧ l.grp = g)
        ∧ ∃ l ∈ (wAdd 0 [landOld]).locks, l.flight = 0 ∧ l.va = g)
    ∧ rangesMeet (addRanges addRaw (eDst addRaw) (rowIndices addRaw (eDst addRaw) (fun _ => 0) (addFlight 0 [landOld]).land))
        (sourceRanges (flightCut (wAdd 0 [landOld]) (addFlight 0 [landOld])) addRaw
          ++ rdRanges (indexReads (flightCut (wAdd 0 [landOld]) (addFlight 0 [landOld])) addRaw (eDst addRaw) (eSrc addRaw).run)) = false := by decide +kernel
theorem witness_ContractResults :
    Ready (inFlight (flight (unit1 9 []))) 1 0 .contract .first (flight (unit1 9 []))
    ∧ Ready (inFlight { flight (unit1 9 []) with stage := .second }) 1 0 .contract .second { flight (unit1 9 []) with stage := .second } :=
  ⟨ready_of (by decide +kernel), ready_of (by decide +kernel)⟩
theorem witness_ContractResults_flags :
    (∀ c ∈ [-(2 ^ 127), 2 ^ 127 - 1], -(2 ^ 127) ≤ c ∧ c ≤ (2 ^ 127 - 1 : Int)) ∧ ((2 ^ 127 - 1 : Int) < 2 ^ 127) ∧ bitAt 1 0 = true
    ∧ (bitAt 6 1 = true ∧ bitAt 6 2 = true) ∧ (bitAt 2 0 = false ∧ bitAt 2 1 = true ∧ bitAt 2 2 = false)
    ∧ (bitAt 4 0 = false ∧ bitAt 4 1 = false ∧ bitAt 4 2 = true) ∧ 24 % 8 = 0
    ∧ (({ s := -(2 ^ 127) - 1 } : Acc).fl = 0 ∧ ({ s := -(2 ^ 127) - 1 } : Acc).s < -(2 ^ 127)) := by decide +kernel

/-- A home, a send to this chip (0xFFFF, LNK_SELF's reset value), a send to chip 2, with a bin of rid 7 or none. -/
def homeRaw : Nat := unit1 0x11 [(832, 7), (872, 1), (856, 2), (912, 9)]
def sendRaw : Nat := unit1 0x11 [(816, 0xFFFF), (832, 7), (872, 1), (856, 2)]
def farRaw : Nat := unit1 0x11 [(816, 2), (832, 7), (872, 1), (856, 2)]
def bin7 (count : Nat) (home : Option Nat) : Bin := { rid := 7, pcnt := 2, rede := 1, accExp := 0, mark := none, accs := [{}], count, home, slices := [0] }
def wBin (f : Flight) (b : List Bin) : State := { inFlight f with lnk.bins := b, lnk.port := [(0, { state := .up })] }
def mcFlight : Flight := { flight (unit1 0x12 []) with list := locList }
theorem witness_LinkSends :
    Ready (inFlight (flight (unit1 0x10 []))) 1 0 .linkput .first (flight (unit1 0x10 []))
    ∧ Ready (wBin (flight farRaw) []) 1 0 .linkreduce .first (flight farRaw) ∧ Ready (inFlight mcFlight) 1 0 .mcast .first mcFlight :=
  ⟨ready_of (by decide +kernel), ready_of (by decide +kernel), ready_of (by decide +kernel)⟩
theorem witness_LinkSends_receivers :
    eHome farRaw = false ∧ (flight farRaw).local_ = false ∧ fencedWrites (inFlight mcFlight) mcFlight = false
    ∧ fencedWrites (inFlight (flight (unit1 0x10 []))) (flight (unit1 0x10 [])) = false
    ∧ ((wBin (flight farRaw) []).getP 0).state = .up ∧ ((wBin (flight farRaw) []).getP 95).state ≠ .up
    ∧ rangesMeet (wrRanges (destWrites { eDst (unit1 0x12 []) with base := 0x3000 } 0 8 false [{ code := 1 }])) (rdRanges (linkReads (unit1 0x12 []))) = false := by
  decide +kernel
theorem witness_ReductionBins :
    Ready (wBin { flight sendRaw with seq := 1, local_ := true } [bin7 1 none]) 1 0 .linkreduce .first { flight sendRaw with seq := 1, local_ := true }
    ∧ Ready (wBin { flight homeRaw with seq := 1 } [bin7 1 (some 0)]) 1 0 .linkreduce .first { flight homeRaw with seq := 1 }
    ∧ Ready (wBin (flight (unit1 0x11 [(832, 7), (872, 1), (856, 2), (912, 1)])) []) 1 0 .linkreduce .first
        (flight (unit1 0x11 [(832, 7), (872, 1), (856, 2), (912, 1)])) :=
  ⟨ready_of (by decide +kernel), ready_of (by decide +kernel), ready_of (by decide +kernel)⟩
theorem witness_ReductionBins_bins :
    eHome sendRaw = false ∧ ({ flight sendRaw with seq := 1, local_ := true } : Flight).local_ = true ∧ (∃ p ∈ (flight sendRaw).parts, p.ctx.isSome = true)
    ∧ eRid sendRaw = 7 ∧ binOf (wBin (flight sendRaw) [bin7 1 none]) 7 = some (bin7 1 none) ∧ (bin7 1 none).count < (bin7 1 none).pcnt
    ∧ eHome homeRaw = true ∧ eHomeSrc homeRaw = true ∧ eRid homeRaw = 7
    ∧ eHomeSrc (unit1 0x11 [(832, 7), (872, 1), (856, 2), (912, 1)]) = false ∧ binOf (wBin (flight homeRaw) []) 7 = none
    ∧ (openBin (wBin (flight homeRaw) []) { bin7 0 (some 0) with accs := [], slices := [] }).isSome = true := by decide +kernel
/-- The home of a complete bin. -/
def homeFlight : Flight := { flight (unit1 0x11 [(832, 7), (872, 1), (856, 2), (912, 1)]) with stage := .second, seq := 1 }
theorem witness_BinResult :
    (wBin homeFlight [bin7 2 (some 0)]).runs = true ∧ (wBin homeFlight [bin7 2 (some 0)]).eng.state ≠ .safe
    ∧ binOf (wBin homeFlight [bin7 2 (some 0)]) (eRid homeFlight.raw) = some (bin7 2 (some 0))
    ∧ homeOf (wBin homeFlight [bin7 2 (some 0)]) (bin7 2 (some 0)) = some homeFlight ∧ (bin7 2 (some 0)).pcnt ≤ (bin7 2 (some 0)).count
    ∧ (bin7 2 (some 0)).writing = false ∧ homeFlight.stage = .second ∧ fencedWrites (wBin homeFlight [bin7 2 (some 0)]) homeFlight = false
    ∧ eHomeSrc homeFlight.raw = false ∧ ({ side := .dest, ord := 0, elem := 0, part := 0, va := 0x20FF, data := [0#8, 0#8], psn := 0#5 } : WrReq).data ≠ [] := by
  decide +kernel

/-- A send that has been answered BUSY at GCLK 9,998,600, and one whose first OPEN is as old as LNK_TIMEOUT. -/
def busyFlight (first : Nat) : Flight :=
  { flight farRaw with stage := .writing, xfers := [{ port := 0, xid := 3, firstAt := first, lastAt := 0, busyAt := some 9998600 }] }
theorem witness_ReductionTimers :
    (wBin (busyFlight 0) []).runs = true ∧ (wBin (busyFlight 0) []).flightAt 1 0 = some (busyFlight 0) ∧ (busyFlight 0).stage ≠ .complete
    ∧ (busyFlight 0).xfers.find? (fun x => !x.loc && x.result.isNone && x.busyAt.isSome)
      = some { port := 0, xid := 3, firstAt := 0, lastAt := 0, busyAt := some 9998600 }
    ∧ (wBin (busyFlight 0) []).eng.state ≠ .safe ∧ ((wBin (busyFlight 0) []).getP 0).state = .up ∧ 9998600 + 1400 ≤ (wBin (busyFlight 0) []).clk.gclk
    ∧ ({ port := 0, xid := 3, firstAt := 0, lastAt := 0, busy := true } : Xfer).busy = true
    ∧ 9860000 + 700 * (wBin (busyFlight 0) []).lnk.timeout.toNat ≤ (wBin (busyFlight 0) []).clk.gclk
    ∧ (wBin (busyFlight 0) []).start.lnk.timeout = base.lnk.timeout
    ∧ binOf (wBin (flight 0) [{ bin7 1 none with idle := 100 }]) 7 = some { bin7 1 none with idle := 100 } ∧ base.lnk.binIdle ≠ 0#16
    ∧ (bin7 1 none).count < (bin7 1 none).pcnt ∧ base.lnk.binIdle.toNat ≤ 100 ∧ 99 < base.lnk.binIdle.toNat := by decide +kernel
/-- An MCAST in flight to a local receiver with a write waiting, or to a remote one whose flits wait without credit; and what it has. -/
def locXfer (stallAt : Option Nat) : Xfer := { port := 0, xid := 0, loc := true, idx := 0, firstAt := 0, lastAt := 0, result := some 0, stallAt }
def farXfer : Xfer := { port := 0, xid := 5, idx := 0, firstAt := 0, lastAt := 0, stallAt := some 0 }
def mcLoc (w : List WrReq) (stallAt : Option Nat) : Flight := { mcFlight with stage := .writing, wtodo := w, xfers := [locXfer stallAt] }
def mcFar : Flight := { mcFlight with stage := .writing, xfers := [farXfer] }
def wMcFar : State := { inFlight mcFar with lnk.port := [(0, { state := .up, tx0 := [mkFlit 4 0 5 []] })] }
theorem witness_MulticastDetach :
    (inFlight (mcLoc [wr0] (some 0))).runs = true ∧ (inFlight (mcLoc [wr0] (some 0))).flightAt 1 0 = some (mcLoc [wr0] (some 0))
    ∧ opOf (mcLoc [wr0] (some 0)).raw = some .mcast ∧ (mcLoc [wr0] (some 0)).stage = .writing
    ∧ (mcLoc [wr0] (some 0)).xfers.find? (fun x => x.idx == 0 && !x.detached) = some (locXfer (some 0))
    ∧ (∃ w ∈ (mcLoc [wr0] (some 0)).wtodo, w.rcv = 0 ∧ inWindow (mcLoc [wr0] (some 0)) w = true) ∧ (locXfer (some 0)).lastAt ≠ base.clk.gclk
    ∧ 0 + 700 * base.lnk.mcStall.toNat ≤ base.clk.gclk ∧ (∀ w ∈ (mcLoc [] none).wtodo, w.rcv ≠ 0) ∧ (locXfer none).stallAt = none
    ∧ wMcFar.flightAt 1 0 = some mcFar ∧ mcFar.xfers.find? (fun x => x.idx == 0 && !x.detached) = some farXfer ∧ farXfer.loc = false
    ∧ (wMcFar.getP 0).tx0.find? (fun k => k.xid == 5) = some (mkFlit 4 0 5 []) ∧ flitStaged mcFar farXfer (mkFlit 4 0 5 []) = true
    ∧ (wMcFar.getP 0).adv.getD 0 0 + (wMcFar.getP 0).seen.getD 0 0 ≤ (wMcFar.getP 0).sent.getD 0 0 ∧ farXfer.sent = 0
    ∧ (inFlight (mcLoc [wr0] (some 0))).start.lnk.mcStall = base.lnk.mcStall := by decide +kernel
theorem witness_LinkSends_feeds :
    (∃ p ∈ mcFlight.parts, p.ctx.isSome = true) ∧ (locXfer none).detached = false ∧ mcFlight.seq < 1 ∧ farXfer.loc = false ∧ farXfer.detached = false
    ∧ ((wBin (flight farRaw) []).getP 0).nextXid < 65536 ∧ ((receivers mcFlight.list).find? fun r => r.idx == 0).isSome = true
    ∧ (∀ r ∈ receivers locList, r.remote = false) ∧ (∃ r ∈ receivers (leBytes (2 ^ 88) 16), r.remote = true) := by decide +kernel
theorem witness_MulticastDetach_taken :
    ({ locXfer (some 0) with lastAt := 10000000 } : Xfer).lastAt = base.clk.gclk ∧ ({ farXfer with lastAt := 10000000, sent := 240 } : Xfer).sent ≠ 0
    ∧ (∀ r ∈ receivers locList, ∃ y ∈ [{ locXfer none with detached := true }], y.idx = r.idx ∧ y.detached = true)
    ∧ ((inFlight { mcLoc [] none with xfers := [{ locXfer none with detached := true }] }).flightOf 0).isSome = true := by decide +kernel

/-! ### Witnesses: link ports (06) -/

/-- Port 0 as given, LNK_SELF = 2. -/
def wPort (p : Port) : State := { base with lnk.self := 2#16, lnk.port := [(0, p)] }
theorem witness_PortControl :
    0 < (wPort {}).cfg.linkPorts ∧ 95 < (wPort {}).cfg.linkPorts ∧ Reaches (wPort {}) 0 (pReg 0 4) ∧ (0x41#32 : Word).getLsbD 0 = true
    ∧ (0x41#32 : Word).getLsbD 1 = false ∧ ((wPort { phyUp := true }).getP 0).state = .down ∧ ((wPort { phyUp := true }).getP 0).phyUp = true
    ∧ (wPort {}).lnk.self ≠ 0xFFFF#16 ∧ ¬ (((wPort {}).getP 0).phyUp = true) ∧ (0#32 : Word).getLsbD 0 = false ∧ (3#32 : Word).getLsbD 1 = true
    ∧ ((wPort { enable := true }).getP 0).phyUp = false ∧ ((wPort { enable := true }).getP 0).enable = true
    ∧ ((wPort { state := .up }).getP 0).state ≠ .down ∧ base.lnk.self = 0xFFFF#16
    ∧ ((wPort { state := .hello, helloAt := 9999300 }).getP 0).helloAt + 700 ≤ (wPort {}).clk.gclk
    ∧ (wPort {}).clk.gclk < ((wPort { state := .hello, helloAt := 9999301 }).getP 0).helloAt + 700 := by decide +kernel

/-- A port in UP with credit on a channel and a flit waiting there. -/
def upPort : Port := { state := .up, confirmed := true, adv := [1, 1, 1, 1], goodAt := 10000000 }
def vcFlit (vc : Nat) : Flit := mkFlit (if vc = 1 then 6 else if vc = 3 then 7 else 4) vc 9 []
theorem witness_FlitsSent :
    ({ upPort with nakDue := true } : Port).state = .up ∧ ({ upPort with nakDue := true } : Port).nakDue = true ∧ base.eng.state ≠ .safe
    ∧ ({ upPort with helloDue := true } : Port).nakDue = false ∧ ({ upPort with confirmed := false } : Port).confirmed = false
    ∧ ({ upPort with resend := [vcFlit 0] } : Port).resend = vcFlit 0 :: [] ∧ upPort.answer = none ∧ upPort.replay.length < 384
    ∧ txRound (wPort upPort) 0 upPort = (none, upPort)
    ∧ (txRound (wPort upPort) 0 { upPort with tx0 := [vcFlit 0], tx2 := [vcFlit 2] }).1 = some (vcFlit 0)
    ∧ (txRound (wPort upPort) 0 { upPort with tx0 := [vcFlit 0], tx2 := [vcFlit 2], turn2 := true }).1 = some (vcFlit 2)
    ∧ ({ upPort with tx3 := [vcFlit 3] } : Port).answer = some (vcFlit 3) ∧ ({ upPort with tx1 := [vcFlit 1], tx3 := [vcFlit 3] } : Port).answer = some (vcFlit 1)
    ∧ (txReady (wPort upPort) 0 { upPort with tx0 := [vcFlit 0] } 0).map (fun t => (t.flit, t.bay)) = [(vcFlit 0, 0)] ∧ (vcFlit 0).vc < 4
    ∧ (384 ≤ ({ upPort with replay := List.replicate 384 (vcFlit 0) } : Port).replay.length)
    ∧ (wPort { state := .hello, helloDue := true }).runs = true ∧ ((wPort {}).getP 0).state = .down ∧ upPort.arb = [] := by decide +kernel

/-- A HELLO of chip 5, port 1, incarnation 3; an IDLE and a NAK. -/
def hello5 : Flit := { mkFlit 1 0 0 (helloPayload 5 1 3) with up := false }
theorem witness_FlitsHeard :
    flitBad (wPort upPort) 0 (mkFlit 0 0 0 []) = none ∧ (mkFlit 0 0 0 []).kind = 0 ∧ (mkFlit 0 0 0 []).up = true ∧ ((wPort upPort).getP 0).state = .up
    ∧ ((wPort { state := .hello }).getP 0).state = .hello ∧ ({ mkFlit 0 0 0 [] with up := false } : Flit).up = false
    ∧ flitBad (wPort upPort) 0 (mkFlit 2 0 0 []) = none ∧ (mkFlit 2 0 0 []).kind = 2 ∧ [vcFlit 0] ≠ [] ∧ flitBad (wPort upPort) 0 hello5 = none ∧ hello5.kind = 1
    ∧ payNat hello5 0 2 = ({ upPort with peerId := 5, peerPort := 1, peerIncarn := 3 } : Port).peerId
    ∧ payNat hello5 2 1 = ({ upPort with peerId := 5, peerPort := 1, peerIncarn := 3 } : Port).peerPort
    ∧ payNat hello5 3 1 % 4 = upPort.peerKind ∧ payNat hello5 9 1 = 3 ∧ payNat hello5 9 1 ≠ upPort.peerIncarn := by decide +kernel
/-- Raw flits: one with its CRC broken, one whose CRC is good and whose kind is reserved. -/
def rawBad : List Byte := List.replicate 256 0xFF#8
theorem witness_BadFlitsAndPeerLoss :
    ({ upPort with recover := true, nakCnt := 15 } : Port).nakCnt < 16 ∧ upPort.recover = false ∧ rawBad.length = 256
    ∧ flitBad (wPort upPort) 0 (mkFlit 3 0 0 []) = some 0
    ∧ ({ upPort with recover := true, nakCnt := 16, nakAt := 9999300 } : Port).nakAt + 700 ≤ base.clk.gclk ∧ 16 ≤ ({ upPort with recover := true, nakCnt := 16 } : Port).nakCnt
    ∧ (wPort upPort).lnk.contribs = [] ∧ ({ upPort with goodAt := 9860000 } : Port).goodAt + 700 * base.lnk.timeout.toNat ≤ base.clk.gclk
    ∧ base.clk.gclk < upPort.goodAt + 700 * base.lnk.timeout.toNat ∧ (wPort { state := .fenced }).runs = true
    ∧ base.start.lnk.timeout = base.lnk.timeout ∧ ({ upPort with recover := true, nakCnt := 16 } : Port).recover = true := by decide +kernel
/-- The bytes of a flit of reserved kind 3, and the header that they give back. -/
theorem witness_BadFlits_parse :
    (parseFlit (flitBytes { mkFlit 3 0 0 [] with payload := [] })) = none
    ∧ bits (flitHeader (mkFlit 3 0 0 [])) 0 4 = 3 := by
  refine ⟨?_, by decide +kernel⟩
  have h : (flitBytes { mkFlit 3 0 0 [] with payload := [] }).length ≠ 256 := by
    have hl : ∀ v n, (leBytes v n).length = n := by
      intro v n; induction n generalizing v with
      | zero => rfl
      | succ n ih => simp [leBytes, ih]
    simp [flitBytes, flitBody, hl]
  rw [parseFlit, if_neg (fun x => h x.1)]

/-- In order, from its parts. -/
theorem inOrder_of {s : State} {n : Nat} {f : Flit}
    (h : s.runs = true ∧ s.eng.state ≠ .safe ∧ n < s.cfg.linkPorts ∧ flitBad s n f = none ∧ (s.getP n).state = .up ∧ f.up = true
      ∧ f.seq = ((s.getP n).ack + 1) % 4096) : InOrder s n f :=
  ⟨h.1, h.2.1, h.2.2.1, h.2.2.2.1, h.2.2.2.2.1, h.2.2.2.2.2.1, h.2.2.2.2.2.2⟩
/-- A PUT OPEN and a REDUCE OPEN of transfer 9 for chip 2 (here) and for chip 3, the last DATA, a CANCEL and a RESP of it. -/
def putShape : Shape := { base := 0x2000, run := 1, cnt1 := 1, cnt2 := 1, cnt3 := 1, step1 := 0, step2 := 0, step3 := 0 }
def flitIn (kind vc : Nat) (payload : List Byte) : Flit := { mkFlit kind vc 9 payload true with seq := 0 }
def openPut9 (dst : Nat) : Flit := flitIn 4 0 (putOpen 1 dst 4 none 1 putShape 0)
def openRed9 (p : Nat) : Flit := flitIn 4 2 (redOpen 1 2 4 7 p 1 0)
def inPort : Port := { upPort with ack := 4095 }
theorem witness_InOrder :
    InOrder (wPort inPort) 0 (openPut9 2) ∧ InOrder (wPort inPort) 0 (openPut9 3) ∧ InOrder (wPort inPort) 0 (openRed9 2)
    ∧ InOrder (wPort inPort) 0 (flitIn 5 0 [1#8]) ∧ InOrder (wPort inPort) 0 (flitIn 7 3 []) ∧ InOrder (wPort inPort) 0 (flitIn 6 1 [3#8]) :=
  ⟨inOrder_of (by decide +kernel), inOrder_of (by decide +kernel), inOrder_of (by decide +kernel), inOrder_of (by decide +kernel),
   inOrder_of (by decide +kernel), inOrder_of (by decide +kernel)⟩
/-- A receive stream of transfer 9 on port 0, as far as it has come. -/
def rx9 (last ended : Bool) : RxOpen := { port := 0, xid := 9, fmt := 4, elems := 1, rtally := some 3, shape := putShape, walk := 0, lastSeen := last, at_ := 0, ended }
def rxFlight (last ended : Bool) : Flight := { id := 0, q := 0, pos := 0, raw := 0, rx := some (rx9 last ended), parts := [{ bay := 0, ctx := some 0 }] }
def wRx (f : Flight) : State := { wPort inPort with flights := [f], nextId := 1, bay := [(0, { ctxs := [0] })] }
theorem witness_ReceiveStreams :
    payNat (openPut9 2) 4 1 = 1 ∧ payNat (openPut9 3) 2 2 ≠ (wPort inPort).lnk.self.toNat ∧ payNat (openPut9 2) 2 2 = (wPort inPort).lnk.self.toNat
    ∧ rxBay (acked (wPort inPort) 0 (openPut9 2)) = some 0 ∧ ((wPort inPort).getB 0).ctxs.length < 128
    ∧ (∀ o ∈ ((wRx (rxFlight false false)).getP 0).held, o.xid ≠ 9)
    ∧ (acked (wRx (rxFlight false false)) 0 (flitIn 5 0 [1#8])).rxAt 0 9 = some (rxFlight false false)
    ∧ (acked (wRx (rxFlight false false)) 0 (flitIn 5 0 [1#8])).flightOf 0 = some (rxFlight false false)
    ∧ (rxFlight false false).rx = some (rx9 false false) ∧ (rxFlight false false).cut = false
    ∧ (acked (wPort inPort) 0 (flitIn 7 3 [])).rxAt 0 9 = none ∧ (∀ c ∈ (wPort inPort).lnk.contribs, c.port ≠ 0 ∨ c.xid ≠ 9) := by decide +kernel
/-- No bay has a free context, and every bay is masked. -/
def wFull : State := { wPort inPort with cfg.bays := 1, bay := [(0, { faulted := true })] }
theorem witness_ReceiveStreams_full :
    rxBay (acked wFull 0 (openPut9 2)) = none ∧ placeBay (acked wFull 0 (openPut9 2)) (acked wFull 0 (openPut9 2)).nextId = none
    ∧ payNat (openPut9 2) 2 2 = wFull.lnk.self.toNat ∧ flitBad wFull 0 (openPut9 2) = none := by decide +kernel
theorem witness_ReceiveStreamComplete :
    (wRx (rxFlight true false)).rxAt 0 9 = some (rxFlight true false) ∧ (wRx (rxFlight true false)).flightOf 0 = some (rxFlight true false)
    ∧ (rx9 true false).lastSeen = true ∧ (rxFlight true false).wtodo = [] ∧ (∀ w ∈ (wRx (rxFlight true false)).writes, w.flight ≠ 0)
    ∧ (rxFlight true false).recd = (rxFlight true false).faults.length ∧ (rxFlight true false).parts = [{ bay := 0, ctx := some 0 }] ∧ (rx9 false true).ended = true := by decide +kernel
/-- A bin of rid 7 for two contributions, and a contribution of transfer 9 in progress. -/
def wCtb (count : Nat) : State :=
  { wPort inPort with lnk.bins := [bin7 count none], lnk.contribs := [{ port := 0, xid := 9, chip := 1, rid := 7, mark := 4, elems := 1, at_ := 0 }] }
def answeredFlight : Flight := { flight farRaw with stage := .writing, xfers := [{ port := 0, xid := 9, firstAt := 0, lastAt := 0 }] }
theorem witness_ContributionsAndResponses :
    payNat (openRed9 2) 4 1 = 2 ∧ payNat (openRed9 2) 2 2 = (wCtb 1).lnk.self.toNat ∧ binOf (wCtb 1) 7 = some (bin7 1 none)
    ∧ ((bin7 1 none).pcnt = payNat (openRed9 2) 18 2 ∧ (bin7 1 none).rede = payNat (openRed9 2) 8 8 ∧ (bin7 1 none).accExp = sext 16 (payNat (openRed9 2) 20 2)
      ∧ (bin7 1 none).mark = none ∧ (bin7 1 none).count < (bin7 1 none).pcnt)
    ∧ (bin7 1 none).pcnt ≠ payNat (openRed9 3) 18 2 ∧ binOf (wPort inPort) 7 = none
    ∧ (openBin (freeSlots (acked (wPort inPort) 0 (openRed9 2)) 0 2 1)
        { rid := 7, pcnt := 2, rede := 1, accExp := 0, mark := some 4, accs := [], port := some 0, chip := 1 }).isSome = true
    ∧ ({ wPort inPort with lnk.binLimit := 0 } : State).lnk.binLimit < ((wPort inPort).lnk.bins.map fun b => b.slices.length).sum + (1 + 16383) / 16384
    ∧ (flitIn 5 2 [1#8]).last = true ∧ (acked (wCtb 1) 0 (flitIn 5 2 [1#8])).rxAt 0 9 = none
    ∧ (wCtb 1).lnk.contribs.find? (fun c => c.port == 0 && c.xid == 9) = some { port := 0, xid := 9, chip := 1, rid := 7, mark := 4, elems := 1, at_ := 0 } := by
  decide +kernel
theorem witness_Responses :
    (wRx answeredFlight).flights.find? (fun g => g.xfers.any fun x => !x.loc && x.port == 0 && x.xid == 9 && x.result.isNone && x.busyAt.isNone && !x.detached)
      = some answeredFlight
    ∧ opOf answeredFlight.raw = some .linkreduce ∧ payNat (flitIn 6 1 [3#8]) 0 1 = 3
    ∧ (∀ g ∈ (wPort inPort).flights, ∀ x ∈ g.xfers, x.port ≠ 0 ∨ x.xid ≠ 9) := by decide +kernel
theorem witness_LinkTimeouts :
    ({ upPort with stall := [some 9860000, none, none, some 9860000] } : Port).stall.getD 0 none = some 9860000
    ∧ 9860000 + 700 * base.lnk.timeout.toNat ≤ base.clk.gclk ∧ base.clk.gclk < upPort.goodAt + 700 * base.lnk.timeout.toNat ∧ upPort.stall.getD 1 none = none
    ∧ answeredFlight ∈ (wRx answeredFlight).flights ∧ ({ port := 0, xid := 9, firstAt := 0, lastAt := 0 } : Xfer) ∈ answeredFlight.xfers
    ∧ (∀ z ∈ ((wRx answeredFlight).getP 0).tx0 ++ ((wRx answeredFlight).getP 0).tx2 ++ ((wRx answeredFlight).getP 0).replay, z.xid ≠ 9)
    ∧ (wRx (rxFlight false false)).rxAt 0 9 = some (rxFlight false false) ∧ (rx9 false false).lastSeen = false ∧ (rx9 false false).ended = false
    ∧ (rx9 false false).at_ + 700 * base.lnk.timeout.toNat ≤ base.clk.gclk ∧ (wRx answeredFlight).start.lnk.timeout = base.lnk.timeout
    ∧ mcFed answeredFlight = true ∧ mcFed mcFlight = false ∧ mcFed { mcFlight with seq := 1 } = true := by decide +kernel

/-! ### Witnesses: arbiters (07) -/

/-- A round of three inputs: 0 holds, 1 has lost twice, 2 waits on a lock. -/
def arbReqs : List ArbReq := [{ i := 0, base := 2 }, { i := 1, base := 3, rt := true }, { i := 2, base := 7, eligible := false }]
theorem witness_Rounds :
    (arbReqs.map (·.i)).Nodup ∧ arbRound true 2 [(0, { hold := true }), (1, { loss := 2 })] arbReqs = ([0, 1], [(0, { hold := true }), (1, { hold := true })])
    ∧ arbRound false 1 [(0, { loss := 14 })] arbReqs = ([1], [(0, { loss := 15 })]) := by decide +kernel
/-- A part of queue 1, of class 3, on an awake bay; and reasons for which it asks for nothing. -/
theorem witness_StreamClasses :
    (flight (unit1 1 [])).rx = none ∧ (rxFlight false false).rx = some (rx9 false false) ∧ (inState .safe).eng.state = .safe
    ∧ bayAwake ({ pwr := .nap } : Bay) = false ∧ coreMasked { base with masks.pwr := [0] } ((base.getQ 1).owner) = true
    ∧ ({ emerg := true } : Bay).emerg = true ∧ ({ base with dbg.busy := true } : State).dbg.busy = true := by decide +kernel
/-- A MOVE whose read is about to leave: its page is cached. -/
def wLeave (locks : List Lock) : State :=
  { inFlight { flight (unit1 1 []) with todo := [rd0] } with locks, bay := [(0, { ctxs := [0], mapc := [{ va := 0x1000, size := 0, pa := 0x5000 }] })] }
theorem witness_ReadsLeave_page : mapFind (wLeave []) 0 0x1000 = some { va := 0x1000, size := 0, pa := 0x5000 } :=
  mapFind_one (by decide +kernel) (by decide +kernel)
theorem witness_ReadsLeave_pieces : portPieces (wLeave []) 0 0x1000 1 = some [{ va := 0x1000, len := 1, pa := 0x5000 }] := by
  have h : pagePieces (wLeave []) 0 3 0x1000 1 = some [{ va := 0x1000, len := 1, pa := 0x5000 }] := by
    rw [pagePieces, witness_ReadsLeave_page, if_neg (by decide)]
    dsimp only
    rw [show min 1 (0x1000 + pageBytes 0 - 0x1000) = 1 by decide +kernel, pagePieces]
    rfl
  rw [portPieces, h]
  decide +kernel
theorem witness_ReadsLeave_asks :
    readAsk (wLeave []) { flight (unit1 1 []) with todo := [rd0] } 0
      = some ({ bay := 0, tag := 0, flight := 0, req := rd0, pa := 0x5000 }, some rd0) := by
  have m : mayIssue (wLeave []) { flight (unit1 1 []) with todo := [rd0] } 0 = true := by decide +kernel
  have c : readCredit (wLeave []) { flight (unit1 1 []) with todo := [rd0] } 0 ≠ 0 := by decide +kernel
  have t : freeTag (trkHeld (wLeave []) 0) = some 0 := by decide +kernel
  have w : ({ flight (unit1 1 []) with todo := [rd0] } : Flight).todo.filter (fun r => r.part == 0 && readInWindow { flight (unit1 1 []) with todo := [rd0] } r)
      = [rd0] := by decide +kernel
  exact readAsk_new (l := []) m rfl c t w witness_ReadsLeave_pieces
theorem witness_ReadsLeave :
    (wLeave []).flightOf 0 = some { flight (unit1 1 []) with todo := [rd0] } ∧ decodePa (wLeave []) 0x5000 = none ∧ lockedOut (wLeave []) 0 0x5000 1 = false
    ∧ (∃ l ∈ (wLeave [{ bay := 1, flight := 9, part := 0, granule := 0x50, va := 0x50 }]).locks, l.flight ≠ 0 ∧ l.granule ∈ granulesOf 0x5000 1)
    ∧ lockRoom (wLeave []) 0 [0x5000 / 256] = true ∧ orderHeld (wLeave []) 0x5000 1 = false := by decide +kernel

/-! ### Witnesses: the block as a whole, flits, shapes -/

theorem witness_StepRunsFrontCommand : ({ base with pending := [.freeze, .tick] } : State).pending = Instr.freeze :: [.tick] := by decide +kernel
theorem witness_EmptyQueueIsOneCycle :
    base.pending = [] ∧ base.eng.state ≠ .frozen ∧ (inState .frozen).pending = [] ∧ (inState .frozen).eng.state = .frozen
    ∧ base.cs.wait = [] ∧ base.cs.late = [] ∧ (base.getQ 1).win = [] ∧ (wSig true).sig.clockOn = true := by decide +kernel
theorem witness_EmptyQueueIsOneCycle_passes :
    (let v := fltPass (talPass (mcStallPass (releasePass (issuePass (deadlinePass (csPass (wSig true)))))))
     v.sig.clockOn = true)
    ∧ (let v := fltPass (talPass (mcStallPass (releasePass (issuePass (deadlinePass (csPass base))))))
       v.sig.src = [] ∧ v.sig.offer = []) := by decide +kernel
theorem witness_ResetLeavesRegisterValues :
    Config.reference.valid = true ∧ ({ bays := 16, linkPorts := 0, stackPorts := 2, wakeWires := 64, hostSignal := false } : Config).valid = true := by
  decide +kernel
theorem witness_EngineStateTransitions :
    (out (exec .freeze base)).eng.state ≠ base.eng.state
    ∧ (out (exec .safeStateEntry wFlt)).eng.state = .safe ∧ (out (exec .selfTestPass (inState .test))).eng.state = .service
    ∧ (out (exec (.fwLoad 0 []) (wCold 64#21 true))).eng.state = .load
    ∧ (wRec .safe [] []).pending = [] ∧ (out (step (wRec .safe [] []))).eng.state = .service
    ∧ (out (step { wCold 64#21 true with cs.wait := [.fwReuse 0] })).eng.state = .load := by decide +kernel
theorem witness_DataCommandsFrame :
    exec (.nop 1) base = .next base ∧ goesOn (exec (.move 1 0) (inFlight (flight (unit1 1 [])))) = true
    ∧ goesOn (exec (.push 0 1 0 []) base) = true := ⟨rfl, by decide +kernel, by decide +kernel⟩
theorem witness_Invariants :
    base.crib.mem.wf = true ∧ base.eng.gmem.wf = true ∧ ({ wTal with pending := [.tallyArrive 0 5 0#2 1#16] } : State).getT 5 = { target := 3, count := 2, wake0 := { valid := true, wire := 0 }, sigEn := true, sigSrc := 128 }
    ∧ ((inFlight (flight 0)).flights.map (·.id)).Nodup ∧ (∀ f ∈ (inFlight (flight 0)).flights, f.id < (inFlight (flight 0)).nextId)
    ∧ Memory.wf (Memory.write [] 5 1#8) = true ∧ goesOn (step base) = true := by decide +kernel
theorem witness_FlitsReadBack :
    (mkFlit 15 3 65535 []).wf = true ∧ (16383 : Nat) < 16384 ∧ putShape.base < 2 ^ 64 ∧ putShape.run < 2 ^ 32
    ∧ (∀ x ∈ [putShape.step1, putShape.step2, putShape.step3], -(2 ^ 63) ≤ x ∧ x < 2 ^ 63) := by
  decide +kernel
theorem witness_ShapeWalk :
    6 < src22.run ∧ 4 < src22.cnt1 ∧ 0 < src22.cnt2 ∧ 0 < src22.cnt3 ∧ (src22.ext0 ≠ 0 ∧ src22.start0 + (0 : Nat) < 0) ∧ ¬ (src22.start0 + (1 : Nat) < 0)
    ∧ destMerge { putShape with run := 4, cnt1 := 2, step1 := 4 } 0 8 false = 2 ∧ ({ putShape with run := 4, cnt1 := 2, step1 := 4 } : Shape).rows = 2
    ∧ destMerge { putShape with run := 4, cnt1 := 2, step1 := 8 } 0 8 false = 1 := by decide +kernel
theorem witness_Rounding : fmtCastable 7 = true ∧ 15 < 2 ^ fmtWidth 7 ∧ valueOf 7 15 = .fin true 3 1 ∧ (0 : Nat) < 1 ∧ 5 % 5 = 0 := by decide +kernel

/-! ### Well-formedness: an ill-formed term for each check -/

theorem wf_config_refuses :
    ({ Config.reference with bays := 48 } : Config).valid = false ∧ ({ Config.reference with linkPorts := 24 } : Config).valid = false
    ∧ ({ Config.reference with stackPorts := 4 } : Config).valid = false ∧ ({ Config.reference with wakeWires := 1000 } : Config).valid = false
    ∧ ({ Config.reference with wakeWires := 0 } : Config).valid = false ∧ ({ Config.reference with wakeWires := 2112 } : Config).valid = false
    ∧ Config.reference.valid = true := by decide +kernel
theorem wf_flit_refuses :
    ({ mkFlit 5 0 9 [] with kind := 16 } : Flit).wf = false ∧ ({ mkFlit 5 0 9 [] with vc := 4 } : Flit).wf = false
    ∧ ({ mkFlit 5 0 9 [] with seq := 4096 } : Flit).wf = false ∧ ({ mkFlit 5 0 9 [] with ack := 4096 } : Flit).wf = false
    ∧ ({ mkFlit 5 0 9 [] with xid := 65536 } : Flit).wf = false ∧ ({ mkFlit 5 0 9 [] with crd := [0, 0, 0] } : Flit).wf = false
    ∧ ({ mkFlit 5 0 9 [] with crd := [0, 0, 0, 256] } : Flit).wf = false ∧ ({ mkFlit 5 0 9 [] with payload := [1#8] } : Flit).wf = false
    ∧ (mkFlit 5 0 9 []).wf = true ∧ Instr.wf Config.reference (.receiveData 0 { mkFlit 5 0 9 [] with kind := 16 }) = false
    ∧ Instr.wf Config.reference (.receiveData 96 (mkFlit 5 0 9 [])) = false ∧ Instr.wf Config.reference (.receiveData 95 (mkFlit 5 0 9 [])) = true := by
  decide +kernel
/-- A response one byte too long. -/
def longResp : Resp := { sts := 0#2, psn := 0#5, data := List.replicate 257 0#8 }
theorem wf_responses_refuse :
    longResp.wf = false ∧ Instr.wf Config.reference (.readResponse 0 0 longResp) = false
    ∧ Instr.wf Config.reference (.entryFetchReturn 1 0 longResp) = false ∧ Instr.wf Config.reference (.fillBeat 0 0 0 longResp) = false
    ∧ Instr.wf Config.reference (.indexBlockReadReturn 1 longResp) = false ∧ Instr.wf Config.reference (.adminCommandFetch false longResp) = false
    ∧ Instr.wf Config.reference (.loadCodebookDone false { longResp with data := List.replicate 513 0#8 }) = false
    ∧ Instr.wf Config.reference (.readResponse 0 0 { longResp with data := List.replicate 256 0#8 }) = true := by decide +kernel
theorem wf_queues_refuse :
    Instr.wf Config.reference (.move 65536 0) = false ∧ Instr.wf Config.reference (.move 1 131072) = false
    ∧ Instr.wf Config.reference (.nop 65536) = false ∧ Instr.wf Config.reference (.qStrike 65 1) = false ∧ Instr.wf Config.reference (.qStrike 0 65536) = false
    ∧ Instr.wf Config.reference (.qElemCntRead 0 1 2) = false ∧ Instr.wf Config.reference (.push 0 1 512 []) = false
    ∧ Instr.wf Config.reference (.push 0 1 0 longResp.data) = false ∧ Instr.wf Config.reference (.multicastDetach 1 0 16) = false
    ∧ Instr.wf Config.reference (.move 65535 131071) = true ∧ Instr.wf Config.reference (.qStrike 64 65535) = true := by decide +kernel
theorem wf_units_refuse :
    Instr.wf Config.reference (.partDispatch 64) = false ∧ Instr.wf Config.reference (.bayFault 0 0 0) = false
    ∧ Instr.wf Config.reference (.bayFault 0 4 0) = false ∧ Instr.wf Config.reference (.bayFault 0 1 128) = false
    ∧ Instr.wf Config.reference (.bayFault 64 1 0) = false ∧ Instr.wf Config.reference (.vectorOffer 2048) = false
    ∧ Instr.wf Config.reference (.readResponse 64 0 { longResp with data := [] }) = false ∧ Instr.wf Config.reference (.writeResponse 0 8192 0#2) = false
    ∧ Instr.wf Config.reference (.fillBeat 8 0 0 { longResp with data := [] }) = false ∧ Instr.wf Config.reference (.fillBeat 0 (2 ^ 31) 0 { longResp with data := [] }) = false
    ∧ Instr.wf Config.reference (.fillBeat 0 0 2 { longResp with data := [] }) = false ∧ Instr.wf Config.reference (.translationRequest 0 (2 ^ 64)) = false
    ∧ Instr.wf Config.reference (.translationCompletion 0 32 0#2 0 0 true true) = false ∧ Instr.wf Config.reference (.translationCompletion 0 0 0#2 0 8 true true) = false
    ∧ Instr.wf Config.reference (.atsInvalidationRequest 0 64 0) = false ∧ Instr.wf Config.reference (.atsInvalidationRequest 0 0 32) = false
    ∧ Instr.wf Config.reference (.eccCorrected 3 0 0) = false ∧ Instr.wf Config.reference (.eccUncorrectable 0 0 0 65536 0) = false
    ∧ Instr.wf Config.reference (.grangerFault 0 0#32) = false ∧ Instr.wf Config.reference (.grangerFault 4 0#32) = false
    ∧ Instr.wf Config.reference (.bayFault 63 3 127) = true ∧ Instr.wf Config.reference (.vectorOffer 2047) = true := by decide +kernel
theorem wf_tallies_and_sources_refuse :
    Instr.wf Config.reference (.tallyRelease 0 16384) = false ∧ Instr.wf Config.reference (.tallyRelease 65 0) = false
    ∧ Instr.wf Config.reference (.tallyWatchdogExpiry 16384) = false ∧ Instr.wf Config.reference (.hstDoorbell 0 64 0#2 1#16) = false
    ∧ Instr.wf Config.reference (.hostNotify 64) = false ∧ Instr.wf Config.reference (.signalSourceInput 33280 true) = false
    ∧ Instr.wf Config.reference (.sigPendSet 0 33280) = false ∧ Instr.wf Config.reference (.fltSrcCfgWrite 0 64 0#32) = false
    ∧ Instr.wf Config.reference (.shootdownComplete 33) = false ∧ Instr.wf Config.reference (.tallyRelease 64 16383) = true
    ∧ Instr.wf Config.reference (.signalSourceInput 33279 true) = true := by decide +kernel
theorem wf_links_and_registers_refuse :
    Instr.wf Config.reference (.peerLost 96) = false ∧ Instr.wf Config.reference (.creditStall 0 4) = false
    ∧ Instr.wf Config.reference (.remoteTimeout 0 65536 true) = false ∧ Instr.wf Config.reference (.receiveBadFlit 0 false []) = false
    ∧ Instr.wf Config.reference (.binResultWrite 65536) = false ∧ Instr.wf Config.reference (.selfTestFail 0x12 0) = false
    ∧ Instr.wf Config.reference (.selfTestFail 0x10 64) = false ∧ Instr.wf Config.reference (.debugRead 16 0) = false
    ∧ Instr.wf Config.reference (.debugRead 0 (2 ^ 56)) = false ∧ Instr.wf Config.reference (.stackDecodeWrite 0 3 0#64) = false
    ∧ Instr.wf Config.reference (.cribWrite 0 524288 4 0#64) = false ∧ Instr.wf Config.reference (.cribWrite 0 0 2 0#64) = false
    ∧ Instr.wf Config.reference (.registerWrite 0 67108864 4 0#64) = false ∧ Instr.wf Config.reference (.registerWrite 0 0 3 0#64) = false
    ∧ Instr.wf Config.reference (.freeze) = true ∧ Instr.wf Config.reference (.registerWrite 64 67108860 4 0#64) = true := by decide +kernel

theorem wf_image_refuses : Instr.wf Config.reference (.fwLoad 0 (List.replicate 1048577 0#8)) = false
    ∧ Instr.wf Config.reference (.fwLoad 0 (List.replicate 1048576 0#8)) = true := by
  constructor
  · simp only [Instr.wf, List.length_replicate]; decide +kernel
  · simp only [Instr.wf, List.length_replicate]; decide +kernel

end Sys2Proof.Tests
end

