-- ==== Sys2Proof/Proofs/ShapeWalk.lean ====
section
/-!
PROOFS. ShapeWalk.lean: the address walk of 02 and the bytes of its rows: the elements of a source's stream, the rows that merge, the
writes of a destination, the packing of a row, and the corner turn.
-/
namespace Sys2Proof.Machine

/-- The quotient of q blocks of b and j more. -/
theorem mul_add_div_of_lt {b j : Nat} (q : Nat) (h : j < b) : (q * b + j) / b = q := by
  rw [Nat.mul_comm, Nat.mul_add_div (by omega), Nat.div_eq_of_lt h, Nat.add_zero]

/-! ### The source walk (R46 to R48, R56) -/

theorem outOf_iff (k : Int) (ext : Nat) : outOf k ext = true ↔ ext ≠ 0 ∧ (k < 0 ∨ (ext : Int) ≤ k) := by
  simp [outOf]

/-- Row (i3, i2, i1) of the canonical walk has these walk indices. -/
theorem rowIdx_canonical (s : Shape) (i3 : Nat) {i1 i2 : Nat} (h1 : i1 < s.cnt1) (h2 : i2 < s.cnt2) :
    rowIdx s 0 ((i3 * s.cnt2 + i2) * s.cnt1 + i1) = (i1, i2, i3) := by
  have hlow : ((i3 * s.cnt2 + i2) * s.cnt1 + i1) % s.cnt1 = i1 := Nat.mul_add_mod_of_lt h1
  have hrest : ((i3 * s.cnt2 + i2) * s.cnt1 + i1) / s.cnt1 = i3 * s.cnt2 + i2 := mul_add_div_of_lt _ h1
  simp [rowIdx, nesting, Shape.cnt, hlow, ← Nat.div_div_eq_div_mul, hrest, Nat.mul_add_mod_of_lt h2, mul_add_div_of_lt i3 h2]

/-- Element e of row (i3, i2, i1) in the stream, by its coordinates. -/
theorem streamElem_eq_srcElem (s : Shape) (w pad : Nat) (land : List Landed) (grp : Nat → Nat) (i3 : Nat) {e i1 i2 : Nat}
    (he : e < s.run) (h1 : i1 < s.cnt1) (h2 : i2 < s.cnt2) :
    streamElem s w pad land grp (((i3 * s.cnt2 + i2) * s.cnt1 + i1) * s.run + e)
      = srcElem s w pad land (grp ((i3 * s.cnt2 + i2) * s.cnt1 + i1)) (s.start1 + i1) (s.start2 + i2) (s.start3 + i3) e := by
  simp only [streamElem, srcRowK, mul_add_div_of_lt _ he, Nat.mul_add_mod_of_lt he, rowIdx_canonical s i3 h1 h2]

/-- The window test of an element is the test of its four axes (R48). -/
theorem rowOut_or_outOf_iff (s : Shape) (k0 k1 k2 k3 : Int) :
    (rowOut s k1 k2 k3 || outOf k0 s.ext0) = true
      ↔ (outOf k0 s.ext0 = true ∨ outOf k1 s.ext1 = true ∨ outOf k2 s.ext2 = true ∨ outOf k3 s.ext3 = true) := by
  rw [Bool.or_comm]; simp only [rowOut, Bool.or_eq_true, or_assoc]

/-- The bit address of R47, from the row's first one. -/
theorem srcRowBit_add (s : Shape) (w e : Nat) (k1 k2 k3 : Int) :
    srcRowBit s w k1 k2 k3 + w * e
      = 8 * (s.base + k1 * s.step1 + k2 * s.step2 + k3 * s.step3) + w * (s.start0 + e) := by
  simp only [srcRowBit, loopOffset, Int.mul_add, Int.add_assoc]

/-! ### Merged rows (R55, R66) -/

/-- Byte offset of row r over loops given innermost first, as mergeRows takes them. -/
def walkOffset : List (Nat × Int × Bool) → Nat → Int
  | [], _ => 0
  | (c, st, _) :: l, r => (r % c : Nat) * st + walkOffset l (r / c)

/-- The loops of a destination, innermost first, as destMerge passes them to mergeRows. -/
def destLoops (d : Shape) (wo : Nat) (ct : Bool) : List (Nat × Int × Bool) :=
  [(d.cnt (nesting wo).2.2, d.step (nesting wo).2.2, !ct), (d.cnt (nesting wo).2.1, d.step (nesting wo).2.1, !ct),
    (d.cnt (nesting wo).1, d.step (nesting wo).1, !ct)]

theorem destMerge_eq (d : Shape) (wo w : Nat) (ct : Bool) :
    destMerge d wo w ct = mergeRows (wholeBytes w d.run) 1 (destLoops d wo ct) := rfl

/-- Table 2.2: the nestings are the six orders of the three loops. -/
theorem nesting_cases (wo : Nat) : nesting wo ∈ [(3, 2, 1), (3, 1, 2), (2, 3, 1), (2, 1, 3), (1, 3, 2), (1, 2, 3)] := by
  unfold nesting; split <;> simp

/-- In each nesting the three counts multiply to the rows of the shape. -/
theorem cnt_nesting_prod (d : Shape) (wo : Nat) :
    d.cnt (nesting wo).2.2 * d.cnt (nesting wo).2.1 * d.cnt (nesting wo).1 = d.rows := by
  have h := nesting_cases wo
  simp only [List.mem_cons, List.not_mem_nil, or_false] at h
  rcases h with h | h | h | h | h | h <;> simp only [h, Shape.cnt, Shape.rows, Nat.reduceEqDiff, ↓reduceIte] <;> ac_rfl

/-- A destination row's address is its offset over the loops of its nesting. -/
theorem destRowAddr_eq_walkOffset (d : Shape) (wo : Nat) (ct : Bool) {r : Nat} (hr : r < d.rows) :
    destRowAddr d wo r = d.base + walkOffset (destLoops d wo ct) r := by
  have hlast : r / (d.cnt (nesting wo).2.2 * d.cnt (nesting wo).2.1) < d.cnt (nesting wo).1 :=
    Nat.div_lt_of_lt_mul (by rwa [cnt_nesting_prod])
  have h := nesting_cases wo
  simp only [List.mem_cons, List.not_mem_nil, or_false] at h
  simp only [destRowAddr, rowIdx, loopOffset, destLoops, walkOffset, Nat.div_div_eq_div_mul, Nat.mod_eq_of_lt hlast]
  rcases h with h | h | h | h | h | h <;> simp only [h, Shape.step, Nat.reduceEqDiff, ↓reduceIte, Int.add_zero] <;> ac_rfl

theorem mergeRows_acc (len acc : Nat) (l : List (Nat × Int × Bool)) : mergeRows len acc l = acc * mergeRows len 1 l := by
  induction l generalizing len acc with
  | nil => simp [mergeRows]
  | cons x l ih =>
    obtain ⟨c, st, ok⟩ := x
    simp only [mergeRows]
    split
    · exact ih _ _
    · split
      · rw [ih _ (acc * c), ih _ (1 * c), Nat.one_mul, Nat.mul_assoc]
      · simp

theorem mergeRows_of_len_zero (acc : Nat) (l : List (Nat × Int × Bool)) : mergeRows 0 acc l = acc := by
  induction l with
  | nil => rfl
  | cons x l ih => simp [mergeRows, ih]

/-- Row j of a merged run lies j rows after the run's first one. -/
theorem walkOffset_of_merged (l : List (Nat × Int × Bool)) (len k : Nat) {j : Nat} (hj : j < mergeRows len 1 l) :
    walkOffset l (mergeRows len 1 l * k + j) = walkOffset l (mergeRows len 1 l * k) + j * len := by
  induction l generalizing len j with
  | nil =>
    obtain rfl : j = 0 := by simpa [mergeRows] using hj
    simp
  | cons x l ih =>
    obtain ⟨c, st, ok⟩ := x
    by_cases hc : c = 1
    · have hm : mergeRows len 1 ((c, st, ok) :: l) = mergeRows len 1 l := by simp [mergeRows, hc]
      rw [hm] at hj ⊢
      simp [walkOffset, hc, ih len hj, Nat.mod_one]
    by_cases hst : (ok && len != 0 && st == (len : Int)) = true
    · have hm : mergeRows len 1 ((c, st, ok) :: l) = c * mergeRows (len * c) 1 l := by
        simp only [mergeRows, if_neg hc, if_pos hst]
        rw [mergeRows_acc, Nat.one_mul]
      obtain ⟨-, rfl⟩ : (ok && len != 0) = true ∧ st = (len : Int) := by simpa using hst
      rw [hm] at hj ⊢
      have hc0 : 0 < c := Nat.pos_of_ne_zero (by rintro rfl; simp at hj)
      have hquot : (c * mergeRows (len * c) 1 l * k + j) / c = mergeRows (len * c) 1 l * k + j / c := by
        rw [Nat.mul_assoc, Nat.mul_add_div hc0]
      have hquot0 : c * mergeRows (len * c) 1 l * k / c = mergeRows (len * c) 1 l * k := by
        rw [Nat.mul_assoc, Nat.mul_div_cancel_left _ hc0]
      have hrem : (c * mergeRows (len * c) 1 l * k + j) % c = j % c := by rw [Nat.mul_assoc, Nat.mul_add_mod]
      have hrem0 : c * mergeRows (len * c) 1 l * k % c = 0 := by rw [Nat.mul_assoc, Nat.mul_mod_right]
      have hdigits : (j : Int) = (c : Int) * (j / c : Nat) + (j % c : Nat) := by exact_mod_cast (Nat.div_add_mod j c).symm
      simp only [walkOffset, hquot, hquot0, hrem, hrem0, ih (len * c) (Nat.div_lt_of_lt_mul hj)]
      rw [hdigits, Int.natCast_mul, Int.natCast_zero, Int.zero_mul, Int.zero_add, Int.add_mul]
      ac_rfl
    · have hm : mergeRows len 1 ((c, st, ok) :: l) = 1 := by simp only [mergeRows, if_neg hc, if_neg hst]
      obtain rfl : j = 0 := by omega
      simp

/-- Rows whose bytes are not whole stay alone. -/
theorem destMerge_cases (d : Shape) (wo w : Nat) (ct : Bool) : destMerge d wo w ct = 1 ∨ wholeBytes w d.run = w * d.run / 8 := by
  by_cases h : w * d.run % 8 = 0
  · exact .inr (if_pos h)
  · left; rw [destMerge_eq, show wholeBytes w d.run = 0 from if_neg h, mergeRows_of_len_zero]

/-- R66: the rows of a merged run lie next to each other. -/
theorem destRowAddr_of_merged (d : Shape) (wo w k : Nat) (ct : Bool) {j : Nat} (hj : j < destMerge d wo w ct)
    (hr : destMerge d wo w ct * k + j < d.rows) :
    destRowAddr d wo (destMerge d wo w ct * k + j) = destRowAddr d wo (destMerge d wo w ct * k) + j * (w * d.run / 8 : Nat) := by
  rcases destMerge_cases d wo w ct with hm | hlen
  · obtain rfl : j = 0 := by omega
    simp
  · rw [destRowAddr_eq_walkOffset d wo ct hr, destRowAddr_eq_walkOffset d wo ct (by omega), ← hlen]
    rw [destMerge_eq] at hj ⊢
    rw [walkOffset_of_merged _ _ _ hj, Int.add_assoc]

/-! ### The writes of a destination (R56, R67) -/

theorem flatMap_drop_take {α : Type} (b n : Nat) (l : List α) :
    ((List.range n).flatMap fun j => (l.drop (b * j)).take b) = l.take (b * n) := by
  induction n with
  | zero => simp
  | succ n ih => simp [List.range_succ, List.flatMap_append, ih, Nat.mul_succ, List.take_add]

/-- The requests of a run hold its bytes, each once and in order. -/
theorem cutRun_flatMap {α : Type} (l : List α) : ((cutRun l.length).flatMap fun p => (l.drop p.1).take p.2) = l := by
  have hcut : ∀ j, (l.drop (256 * j)).take (min 256 (l.length - 256 * j)) = (l.drop (256 * j)).take 256 := fun j => by
    rw [← List.length_drop, ← List.take_take, List.take_length]
  simp only [cutRun, List.flatMap_map, hcut, flatMap_drop_take]
  exact List.take_of_length_le (by unfold ceilDiv; omega)

theorem runWrites_data (side : Side) (w va elem : Nat) (bs : List (Byte × Bool)) :
    (runWrites side w va elem bs).flatMap (·.data) = bs.map Prod.fst := by
  conv => rhs; rw [← cutRun_flatMap bs, List.map_flatMap]
  simp only [runWrites, List.flatMap_map]

/-- Joining rows keeps their bytes and their order. -/
theorem joinRows_bytes (rows : List (Nat × Nat × Bool × List (Byte × Bool))) (acc : List (Nat × Nat × List (Byte × Bool))) :
    (joinRows rows acc).flatMap (·.2.2) = acc.reverse.flatMap (·.2.2) ++ rows.flatMap (·.2.2.2) := by
  induction rows generalizing acc with
  | nil => simp [joinRows]
  | cons x rows ih =>
    obtain ⟨row, a, glue, bs⟩ := x
    cases acc with
    | nil => simp [joinRows, ih]
    | cons g acc => cases glue <;> simp [joinRows, ih]

/-- Rows of which none is glued stay apart. -/
theorem joinRows_of_unglued (rows : List (Nat × Nat × Bool × List (Byte × Bool))) (acc : List (Nat × Nat × List (Byte × Bool)))
    (h : ∀ x ∈ rows, x.2.2.1 = false) :
    joinRows rows acc = acc.reverse ++ rows.map fun x => (x.2.1, x.1, x.2.2.2) := by
  induction rows generalizing acc with
  | nil => simp [joinRows]
  | cons x rows ih =>
    obtain ⟨row, a, glue, bs⟩ := x
    obtain ⟨rfl, hrows⟩ : glue = false ∧ ∀ x ∈ rows, x.2.2.1 = false := by simpa using h
    cases acc <;> simp [joinRows, ih _ hrows]

/-- The writes of a destination carry its rows' bytes, in order. -/
theorem destWrites_data (d : Shape) (wo w : Nat) (ct : Bool) (es : List Elem) :
    (destWrites d wo w ct es).flatMap (·.data) = (chunk d.run d.rows es).flatMap fun r => (rowBytes w r).map Prod.fst := by
  simp only [destWrites, List.flatMap_assoc, runWrites_data]
  rw [← List.map_flatMap, joinRows_bytes, List.reverse_nil, List.flatMap_nil, List.nil_append, List.flatMap_map, List.map_flatMap]
  conv => rhs; rw [← List.zipIdx_map_fst 0 (chunk d.run d.rows es), List.flatMap_map]

/-- Unmerged, each row is written at its own address. -/
theorem destWrites_of_unmerged (d : Shape) (wo w : Nat) (ct : Bool) (es : List Elem) (h : destMerge d wo w ct = 1) :
    destWrites d wo w ct es
      = (chunk d.run d.rows es).zipIdx.flatMap fun (x, r) => runWrites .dest w (destRowAddr d wo r).toNat (r * d.run) (rowBytes w x) := by
  simp only [destWrites, h]
  rw [joinRows_of_unglued _ _ (by simp [Nat.mod_one]), List.reverse_nil, List.nil_append, List.map_map, List.flatMap_map]
  rfl

/-! ### The bytes of a row (R7, R59) -/

theorem packCodes_cons (w c : Nat) (cs : List Nat) : packCodes w (c :: cs) = 2 ^ w * packCodes w cs + c % 2 ^ w := by
  rw [Nat.mul_comm, Nat.add_comm]; rfl

theorem packCodes_lt (w : Nat) (cs : List Nat) : packCodes w cs < 2 ^ (w * cs.length) := by
  induction cs with
  | nil => simp [packCodes]
  | cons c cs ih =>
    have hc : c % 2 ^ w < 2 ^ w := Nat.mod_lt _ (Nat.two_pow_pos w)
    calc packCodes w (c :: cs) = 2 ^ w * packCodes w cs + c % 2 ^ w := packCodes_cons w c cs
      _ < 2 ^ w * (packCodes w cs + 1) := by rw [Nat.mul_succ]; omega
      _ ≤ 2 ^ w * 2 ^ (w * cs.length) := Nat.mul_le_mul_left _ ih
      _ = 2 ^ (w * (c :: cs).length) := by rw [← Nat.pow_add, List.length_cons, Nat.mul_succ, Nat.add_comm]

/-- Code i stands at bit w × i. -/
theorem bits_packCodes (w : Nat) {cs : List Nat} {i c : Nat} (h : cs[i]? = some c) : bits (packCodes w cs) (w * i) w = c % 2 ^ w := by
  induction cs generalizing i with
  | nil => simp at h
  | cons a cs ih =>
    cases i with
    | zero =>
      obtain rfl : a = c := by simpa using h
      simp [bits, packCodes_cons]
    | succ i =>
      have hrest : packCodes w (a :: cs) >>> w = packCodes w cs := by
        rw [packCodes_cons, Nat.shiftRight_eq_div_pow, Nat.mul_add_div (Nat.two_pow_pos w), Nat.div_eq_of_lt (Nat.mod_lt _ (Nat.two_pow_pos w)),
          Nat.add_zero]
      rw [← ih (by simpa using h), bits, Nat.mul_succ, Nat.add_comm, Nat.shiftRight_add, hrest, bits]

theorem rowBytes_data (w : Nat) (es : List Elem) :
    (rowBytes w es).map Prod.fst = leBytes (packCodes w (es.map (·.code))) ((w * es.length + 7) / 8) := by
  simp only [rowBytes, List.map_map]
  exact List.zipIdx_map_fst 0 _

theorem rowBytes_length (w : Nat) (es : List Elem) : (rowBytes w es).length = (w * es.length + 7) / 8 := by
  simpa using congrArg List.length (rowBytes_data w es)

/-- The bytes of a row spell its packed codes: they are enough to hold them. -/
theorem leNat_rowBytes (w : Nat) (es : List Elem) : leNat ((rowBytes w es).map Prod.fst) = packCodes w (es.map (·.code)) := by
  rw [rowBytes_data]
  refine leNat_leBytes_of_lt ?_
  calc packCodes w (es.map (·.code)) < 2 ^ (w * es.length) := by simpa using packCodes_lt w (es.map (·.code))
    _ ≤ 2 ^ (8 * ((w * es.length + 7) / 8)) := Nat.pow_le_pow_right (by omega) (by omega)
    _ = 256 ^ ((w * es.length + 7) / 8) := by rw [Nat.pow_mul]

/-! ### The corner turn (R60) -/

theorem turnIdx_eq (s d : Shape) (p : Nat) {i0 i1 : Nat} (h0 : i0 < d.run) (h1 : i1 < d.cnt1) :
    turnIdx s d (p * (d.run * d.cnt1) + i1 * d.run + i0) = p * (d.run * d.cnt1) + i0 * s.run + i1 := by
  have hplane : i1 * d.run + i0 < d.run * d.cnt1 :=
    calc i1 * d.run + i0 < (i1 + 1) * d.run := by rw [Nat.succ_mul]; omega
      _ ≤ d.run * d.cnt1 := by rw [Nat.mul_comm]; exact Nat.mul_le_mul_left _ h1
  rw [Nat.add_assoc]
  simp only [turnIdx, mul_add_div_of_lt p hplane, Nat.mul_add_mod_of_lt hplane, mul_add_div_of_lt i1 h0, Nat.mul_add_mod_of_lt h0]

end Sys2Proof.Machine

open Sys2Proof Sys2Proof.Machine

/-- Settles O59: each part from the lemma about the model's function that it speaks of. -/
theorem shapeWalk : Obligations.ShapeWalk := by
  unfold Obligations.ShapeWalk
  refine ⟨?stream, ?merged, destWrites_data, destWrites_of_unmerged, ?row, ?turn⟩
  case stream =>
    intro s w pad land grp e i1 i2 i3 he h1 h2 _
    have helem := streamElem_eq_srcElem s w pad land grp i3 he h1 h2
    have hout := rowOut_or_outOf_iff s (s.start0 + e) (s.start1 + i1) (s.start2 + i2) (s.start3 + i3)
    simp only [outOf_iff] at hout
    constructor
    · intro h
      rw [helem, srcElem, if_pos (hout.mpr h)]
    · intro h
      rw [helem, srcElem, if_neg (mt hout.mp h), srcRowBit_add]
  case merged => exact fun d wo w k j ct hj hr => destRowAddr_of_merged d wo w k ct hj hr
  case row =>
    intro w i es x _ hx
    rw [leNat_rowBytes]
    exact ⟨bits_packCodes w (by simp [hx]), rowBytes_length w es, by simpa using packCodes_lt w (es.map (·.code))⟩
  case turn => exact fun s d p i0 i1 h0 h1 => turnIdx_eq s d p h0 h1
end

