-- ==== Sys2Proof/Proofs/Pushes.lean ====
section
/-!
PROOFS. Pushes.lean: pushes to a queue's window (R288 to R290): where an entry that comes in stands in the window, and what each of the
four outcomes of a push does.
-/
namespace Sys2Proof.Machine

/-! ### An entry that comes in (R276) -/

theorem put_put {α : Type} (t : Tbl α) (k : Nat) (v w : α) : Tbl.put (Tbl.put t k v) k w = Tbl.put t k w := by
  induction t with
  | nil => simp [Tbl.put]
  | cons a r ih =>
    obtain ⟨a, u⟩ := a
    by_cases hlt : k < a
    · simp [Tbl.put, hlt]
    by_cases heq : a = k
    · simp [Tbl.put, heq]
    · simp [Tbl.put, hlt, heq, ih]

@[simp] theorem setQ_setQ (s : State) (q : Nat) (v w : Queue) : (s.setQ q v).setQ q w = s.setQ q w :=
  congrArg (fun l => { s with qs := l }) (put_put s.qs q v w)

/-- The queue with a slot in its place of the ring order; a slot that stood at that place is gone. -/
def Queue.enter (y : Queue) (x : Slot) : Queue :=
  let d (p : Nat) : Nat := ringDist y.size y.h p
  { y with win := (y.win.filter fun z => decide (d z.pos < d x.pos)) ++ [x] ++ y.win.filter fun z => decide (d z.pos > d x.pos) }

theorem takeEntry_eq_setQ_enter (s : State) (q pos addr raw : Nat) (pushed : Bool) :
    takeEntry s q pos addr raw pushed
      = s.setQ q ((s.getQ q).enter { pos, addr, raw, st := .checking, tick := s.tick.count.toNat, at_ := s.clk.gclk, pushed }) := rfl

/-- A filter that keeps no slot of a position leaves none to be found there. -/
theorem find?_filter_pos_eq_none {l : List Slot} {f : Slot → Bool} {pos : Nat} (h : ∀ z : Slot, z.pos = pos → f z = false) :
    (l.filter f).find? (fun z => z.pos == pos) = none := by
  rw [List.find?_eq_none]
  intro z hz hpos
  rw [List.mem_filter, h z (by simpa using hpos)] at hz
  simp at hz

/-- A filter that keeps every slot of a position changes nothing of what is found there. -/
theorem find?_filter_pos_eq {l : List Slot} {f : Slot → Bool} {pos : Nat} (h : ∀ z : Slot, z.pos = pos → f z = true) :
    (l.filter f).find? (fun z => z.pos == pos) = l.find? fun z => z.pos == pos := by
  rw [List.find?_filter]
  congr 1
  funext z
  by_cases hpos : z.pos = pos <;> simp [hpos, h z]

theorem slotAt_enter_self (y : Queue) (x : Slot) : (y.enter x).slotAt x.pos = some x := by
  have hbefore : (y.win.filter fun z => decide (ringDist y.size y.h z.pos < ringDist y.size y.h x.pos)).find? (fun z => z.pos == x.pos) = none :=
    find?_filter_pos_eq_none fun z hz => by simp [hz]
  simp [Queue.slotAt, Queue.enter, List.find?_append, hbefore]

/-- A slot that comes in leaves what stands at every other place of the ring. -/
theorem slotAt_enter_of_ringDist_ne {y : Queue} {x : Slot} {pos : Nat} (h : ringDist y.size y.h pos ≠ ringDist y.size y.h x.pos) :
    (y.enter x).slotAt pos = y.slotAt pos := by
  have hx : x.pos ≠ pos := fun e => h (e ▸ rfl)
  simp only [Queue.slotAt, Queue.enter, List.find?_append]
  rcases Nat.lt_or_gt_of_ne h with hlt | hgt
  · rw [find?_filter_pos_eq fun z hz => by simp [hz, hlt], find?_filter_pos_eq_none fun z hz => by simp [hz, Nat.le_of_lt hlt]]
    simp [hx]
  · rw [find?_filter_pos_eq_none fun z hz => by simp [hz, Nat.le_of_lt hgt], find?_filter_pos_eq fun z hz => by simp [hz, hgt]]
    simp [hx]

/-- Neighbours in the ring lie at different distances from the head: the ring has two positions or more. -/
theorem ringDist_after_one_ne (y : Queue) (a p : Nat) : ringDist y.size a (y.after p 1) ≠ ringDist y.size a p := by
  have hsize : 0 < y.size := Nat.two_pow_pos y.k
  have hhead : a % (2 * y.size) < 2 * y.size := Nat.mod_lt _ (by omega)
  have hstep : ringDist y.size a (y.after p 1) = (ringDist y.size a p + 1) % (2 * y.size) := by
    unfold ringDist Queue.after
    generalize 2 * y.size = m at hhead ⊢
    rw [Nat.mod_add_mod, Nat.add_sub_assoc (Nat.le_of_lt hhead), Nat.add_sub_assoc (Nat.le_of_lt hhead), Nat.mod_add_mod]
    congr 1; omega
  have hdist : ringDist y.size a p < 2 * y.size := Nat.mod_lt _ (by omega)
  rw [hstep]
  rcases Nat.lt_or_ge (ringDist y.size a p + 1) (2 * y.size) with hlt | hge
  · rw [Nat.mod_eq_of_lt hlt]; omega
  · rw [show ringDist y.size a p + 1 = 2 * y.size by omega, Nat.mod_self]; omega

/-! ### A push that is taken (R290) -/

/-- The slot of an entry that is pushed now. -/
def pushedSlot (s : State) (pos addr raw : Nat) : Slot :=
  { pos, addr, raw, st := .checking, tick := s.tick.count.toNat, at_ := s.clk.gclk, pushed := true }

/-- The queue once it has taken n pushed entries in the slots x and, of two, x'; the next fetch is at an address. -/
def Queue.takePush (y : Queue) (n : Nat) (x x' : Slot) (next : Nat) : Queue :=
  let z := Queue.enter { y with p := y.after y.p n } x
  { (if n = 2 then z.enter x' else z) with f := y.after y.p n, fetchAddr := next }

/-- The model's steps of taking a push, in one update of the queue. -/
theorem modQ_takeEntry_eq_setQ_takePush (t : State) (q n a a' raw raw' next : Nat) :
    (let y := t.getQ q
     let u := takeEntry (t.setQ q { y with p := y.after y.p n }) q y.p a raw true
     (if n = 2 then takeEntry u q (y.after y.p 1) a' raw' true else u).modQ q fun z => { z with f := y.after y.p n, fetchAddr := next })
      = t.setQ q ((t.getQ q).takePush n (pushedSlot t (t.getQ q).p a raw) (pushedSlot t ((t.getQ q).after (t.getQ q).p 1) a' raw') next) := by
  unfold Queue.takePush
  split <;> simp only [takeEntry_eq_setQ_enter, State.modQ, getQ_setQ, setQ_setQ] <;> rfl

theorem takePush_p (y : Queue) (n : Nat) (x x' : Slot) (next : Nat) : (y.takePush n x x' next).p = y.after y.p n := by
  unfold Queue.takePush; split <;> rfl

theorem takePush_f (y : Queue) (n : Nat) (x x' : Slot) (next : Nat) : (y.takePush n x x' next).f = y.after y.p n := rfl

/-- The second slot, at the next position, leaves the first in its place. -/
theorem slotAt_takePush_first {y : Queue} {n : Nat} {x x' : Slot} {next : Nat} (h : x'.pos = y.after x.pos 1) :
    (y.takePush n x x' next).slotAt x.pos = some x := by
  have hfirst : (Queue.enter { y with p := y.after y.p n } x).slotAt x.pos = some x := slotAt_enter_self _ x
  unfold Queue.takePush
  split
  · have hne : ringDist y.size y.h x.pos ≠ ringDist y.size y.h x'.pos := h ▸ (ringDist_after_one_ne y y.h x.pos).symm
    exact (slotAt_enter_of_ringDist_ne (y := Queue.enter { y with p := y.after y.p n } x) hne).trans hfirst
  · exact hfirst

theorem slotAt_takePush_second (y : Queue) (x x' : Slot) (next : Nat) : (y.takePush 2 x x' next).slotAt x'.pos = some x' :=
  slotAt_enter_self _ x'

/-! ### The outcomes of a push (R288, R289, R439) -/

/-- A port's write that is applied at once acts. -/
theorem csTake_of_open {s : State} {port : Nat} (hr : s.runs = true) (ho : csOpen s port = true) (i : Instr) (f : State → State) :
    csTake i port s f = .next (f s) := by
  rw [csTake, act_true _ _ hr, if_pos ho]

theorem exec_push (s : State) (port q off : Nat) (data : List Byte) :
    exec (.push port q off data) s = execPush port q off data s := rfl

/-- The entries that a push at an offset of the window announces (R288). -/
def pushCount (off : Nat) : Nat := if off = 0 then 2 else 1

/-- A push of the right shape to an ENABLED queue, which the self-test does not shut. -/
def PushHits (s : State) (port q off : Nat) (data : List Byte) : Prop :=
  (off = 0 ∨ off = 256) ∧ data.length = 256 ∧ 1 ≤ q ∧ (s.getQ q).state = .enabled ∧ testShut s port (0x1000000 + 512 * q) = false

/-- The state in which a push acts: its write is granted and answered. -/
def pushAnswered (s : State) (port : Nat) : State := answered (csGrant s port) port 0#64

/-- The model's guard: neither the grant nor the answer bears on it. -/
theorem pushHits_iff (s : State) (port q off : Nat) (data : List Byte) :
    PushHits s port q off data ↔
      ((off == 0 || off == 256) && data.length == 256 && q != 0 && (s.getQ q).state == .enabled
        && !testShut (pushAnswered s port) port (0x1000000 + 512 * q)) = true := by
  have hshut : testShut (pushAnswered s port) port (0x1000000 + 512 * q) = testShut s port (0x1000000 + 512 * q) := rfl
  simp [PushHits, hshut, Nat.one_le_iff_ne_zero, and_assoc]

section
variable {s : State} {port q off : Nat} {data : List Byte} (hr : s.runs = true) (ho : csOpen s port = true)
include hr ho

theorem exec_push_of_not_hits (h : ¬ PushHits s port q off data) :
    exec (.push port q off data) s = .next (pushAnswered s port) := by
  rw [exec_push, execPush, csTake_of_open hr ho]
  rw [pushHits_iff, Bool.not_eq_true] at h
  exact congrArg _ (if_pos (congrArg not h))

/-- A push that hits either overflows the ring, or is taken, or leaves its entries to be fetched. -/
theorem exec_push_of_hits (h : PushHits s port q off data) :
    exec (.push port q off data) s = .next (
      let y := s.getQ q
      let t := pushAnswered s port
      if ringDist y.size y.h y.p + pushCount off > y.size then queueError t q y.f 0x0A 0
      else if y.f = y.p ∧ y.buffered + pushCount off ≤ 4 then
        recheck (t.setQ q (y.takePush (pushCount off) (pushedSlot s y.p y.fetchFrom (leNat (data.take 128)))
          (pushedSlot s (y.after y.p 1) (y.nextAddr y.fetchFrom) (leNat (data.drop 128)))
          (if pushCount off = 2 then y.nextAddr (y.nextAddr y.fetchFrom) else y.nextAddr y.fetchFrom))) q
      else t.setQ q { y with p := y.after y.p (pushCount off) }) := by
  rw [exec_push, execPush, csTake_of_open hr ho]
  refine congrArg _ ((if_neg fun e => Bool.false_ne_true ((congrArg not ((pushHits_iff ..).mp h)).symm.trans e)).trans ?_)
  refine ite_congr rfl (fun _ => rfl) fun _ => ite_congr rfl (fun _ => ?_) fun _ => rfl
  refine congrArg (recheck · q) ?_
  exact modQ_takeEntry_eq_setQ_takePush (pushAnswered s port) ..

end

end Sys2Proof.Machine

open Sys2Proof Sys2Proof.Machine

/-- Settles O20: the four outcomes of a push, each from the lemma about it. -/
theorem pushes : Obligations.Pushes := by
  unfold Obligations.Pushes
  intro s port q off data hr ho y n ok p t addr
  refine ⟨?taken, ?fetched, ?overflow, exec_push_of_not_hits hr ho⟩
  case taken =>
    intro hok hroom hf hbuf
    refine ⟨_, (exec_push_of_hits hr ho hok).trans (congrArg _ ((if_neg (Nat.not_lt.mpr hroom)).trans (if_pos ⟨hf, hbuf⟩))), ?_⟩
    rw [getQ_setQ]
    refine ⟨takePush_p .., takePush_f .., slotAt_takePush_first rfl, ?second, fun k hk => getQ_setQ_ne _ _ _ _ hk, rfl⟩
    case second =>
      intro h0
      subst h0
      exact slotAt_takePush_second ..
  case fetched =>
    intro hok hroom hf
    refine (exec_push_of_hits hr ho hok).trans (congrArg _ ((if_neg (Nat.not_lt.mpr hroom)).trans (if_neg ?_)))
    rintro ⟨hfp, hbuf⟩
    exact hf.elim (absurd hfp) (Nat.not_lt.mpr hbuf)
  case overflow =>
    intro hok hover
    exact (exec_push_of_hits hr ho hok).trans (congrArg _ (if_pos hover))
end

