-- ==== Sys2Proof/Proofs/TallyArrivals.lean ====
section
/-!
PROOFS. TallyArrivals.lean: arrivals at tallies (R352, R353, R357, R365): what the arrivals of a GCLK make of their tally, which wake
wires, host channels and source its firing reaches, and when a wake wire is high.
-/
namespace Sys2Proof.Machine

/-! ### Counting the arrivals of a GCLK (R353) -/

/-- Rounds counted in two goes: what the first leaves over is counted with the second. -/
theorem div_add_mod_add_div {t : Nat} (ht : t ≠ 0) (a b : Nat) : a / t + (a % t + b) / t = (a + b) / t := by
  rw [← Nat.mul_add_div (Nat.pos_of_ne_zero ht), ← Nat.add_assoc, Nat.div_add_mod]

/-- A round is complete after two goes when it is after the first, or after the second with what the first leaves over. -/
theorem le_or_le_mod_add (t a b : Nat) : (decide (t ≤ a) || decide (t ≤ a % t + b)) = decide (t ≤ a + b) := by
  by_cases h : t ≤ a
  · simp [h, Nat.le_add_right_of_le h]
  · simp [h, Nat.mod_eq_of_lt (Nat.lt_of_not_le h)]

/-- A number of arrivals above 0 leaves the watchdog armed while a round is begun, and fires the tally when it completes one. -/
theorem countArrivals_of_pos {y : Tally} (ht : y.target ≠ 0) (k : Arr) {n : Nat} (hn : n ≠ 0) : countArrivals y k n = ({ y with
      count := (y.count + n) % y.target
      fire := (y.fire + (y.count + n) / y.target) % 65536
      fault := y.fault || k != .normal
      epoch := if k != .normal && !y.fault then (y.fire + 1) % 65536 else y.epoch
      abandon := if k = .abandoned then min (y.abandon + n) 0xFFF else y.abandon
      idle := 0
      armed := decide (0 < (y.count + n) % y.target) }, decide (y.target ≤ y.count + n)) := by
  have hround : 0 < (y.count + n) / y.target ↔ y.target ≤ y.count + n := by simp [Nat.div_pos_iff, Nat.pos_of_ne_zero ht]
  refine Prod.ext ?tally ?fired
  case tally =>
    rw [countArrivals_eq]
    by_cases hleft : 0 < (y.count + n) % y.target
    · simp [hleft]
    · have hle : y.target ≤ y.count + n :=
        Nat.le_of_dvd (by omega) (Nat.dvd_of_mod_eq_zero (Nat.eq_zero_of_not_pos hleft))
      simp [hleft, hround, hle]
  case fired => cases k <;> cases hf : y.fault <;> simp [countArrivals, hf, hround]

/-- The tally when n normal, m faulted and k abandoned arrivals are counted, and whether it fires: R353 on their sum. -/
def Tally.counted (y : Tally) (n m k : Nat) : Tally × Bool :=
  if n + m + k = 0 then (y, false)
  else ({ y with
    count := (y.count + (n + m + k)) % y.target
    fire := (y.fire + (y.count + (n + m + k)) / y.target) % 65536
    fault := y.fault || decide (0 < m + k)
    epoch := if y.fault = false ∧ 0 < m + k then (y.fire + (if n = 0 then 0 else (y.count + n) / y.target) + 1) % 65536 else y.epoch
    abandon := if 0 < k then min (y.abandon + k) 0xFFF else y.abandon
    idle := 0
    armed := decide (0 < (y.count + (n + m + k)) % y.target) }, decide (y.target ≤ y.count + (n + m + k)))

/-- A tally fires when there are arrivals and they complete a round. -/
theorem counted_fires (y : Tally) (n m k : Nat) :
    (y.counted n m k).2 = true ↔ 0 < n + m + k ∧ y.target ≤ y.count + (n + m + k) := by
  unfold Tally.counted
  split
  case isTrue hnone => simp [hnone]
  case isFalse hsome => simp [Nat.pos_of_ne_zero hsome]

/-- The wake bindings of a tally, in order. -/
def Tally.wakes (y : Tally) : List Wake := [y.wake0, y.wake1, y.wake2, y.wake3]

/-- Counting leaves the wake bindings as they are. -/
theorem counted_wakes (y : Tally) (n m k : Nat) : (y.counted n m k).1.wakes = y.wakes := by
  unfold Tally.counted
  split <;> rfl

section
variable {y : Tally} (ht : y.target ≠ 0) (n m k : Nat)
include ht

theorem take_normal : Tally.take (y, false) .normal n = y.counted n 0 0 := by
  by_cases hn : n = 0
  · simp [Tally.take, Tally.counted, hn]
  · simp [Tally.take, Tally.counted, hn, countArrivals_of_pos ht]

theorem take_faulted : Tally.take (y.counted n 0 0) .faulted m = y.counted n m 0 := by
  by_cases hm : m = 0
  · simp [Tally.take, hm]
  have hpos : 0 < m := Nat.pos_of_ne_zero hm
  by_cases hn : n = 0
  · simp [Tally.take, Tally.counted, hn, hm, hpos, countArrivals_of_pos ht]
  · simp [Tally.take, Tally.counted, hn, hm, hpos, countArrivals_of_pos, ht, Nat.add_assoc, div_add_mod_add_div, le_or_le_mod_add]

theorem take_abandoned : Tally.take (y.counted n m 0) .abandoned k = y.counted n m k := by
  by_cases hk : k = 0
  · simp [Tally.take, hk]
  have hpos : 0 < k := Nat.pos_of_ne_zero hk
  by_cases hm : m = 0
  · by_cases hn : n = 0
    · simp [Tally.take, Tally.counted, hn, hm, hk, hpos, countArrivals_of_pos ht]
    · simp [Tally.take, Tally.counted, hn, hm, hk, hpos, countArrivals_of_pos, ht, Nat.add_assoc, div_add_mod_add_div, le_or_le_mod_add]
  · have hmpos : 0 < m := Nat.pos_of_ne_zero hm
    have hmk : 0 < m + k := Nat.add_pos_left hmpos k
    simp [Tally.take, Tally.counted, hm, hmpos, hmk, hk, hpos, countArrivals_of_pos, ht, Nat.add_assoc, div_add_mod_add_div,
      le_or_le_mod_add]

/-- The arrivals of a GCLK, kind after kind, are counted as one sum. -/
theorem takes_arrivals : y.takes { normal := n, faulted := m, abandoned := k } = y.counted n m k := by
  rw [Tally.takes, take_normal ht, take_faulted ht, take_abandoned ht]
end

/-! ### A tally at the end of its GCLK -/

/-- Arrivals at a bound tally are counted, and it fires its outputs when they complete a round. -/
theorem talStep_arrivals {s : State} {t : Nat} (ht : (s.getT t).target ≠ 0) (n m k : Nat) :
    talStep s t { normal := n, faulted := m, abandoned := k }
      = (let r := (s.getT t).counted n m k
         if r.2 then fireOutputs (s.setT t r.1) t else s.setT t r.1) := by
  have hprep : (s.getT t).prepare { normal := n, faulted := m, abandoned := k } = s.getT t := rfl
  simp [talStep, hprep, ht, takes_arrivals ht]

/-- Besides the tally itself, its arrivals change wires, host channels and interrupt sources alone. -/
theorem talStep_arrivals_eq {s : State} {t : Nat} (ht : (s.getT t).target ≠ 0) (n m k : Nat) : ∃ w h l,
    talStep s t { normal := n, faulted := m, abandoned := k }
      = { s.setT t ((s.getT t).counted n m k).1 with tal.wire := w, hst := h, sig.src := l } := by
  rw [talStep_arrivals ht]
  dsimp only
  split
  · obtain ⟨w, l, h⟩ := fireOutputs_eq (s.setT t ((s.getT t).counted n m k).1) t
    exact ⟨w, _, l, h⟩
  · exact ⟨s.tal.wire, s.hst, s.sig.src, rfl⟩

/-- Arrivals at an unbound tally go astray. -/
theorem talStep_arrivals_unbound {s : State} {t : Nat} (ht : (s.getT t).target = 0) (n m k : Nat) :
    talStep s t { normal := n, faulted := m, abandoned := k } = addStray (s.setT t (s.getT t)) (n + m + k) :=
  if_pos ht

theorem setT_getT_getT (s : State) (t j : Nat) : (s.setT t (s.getT t)).getT j = s.getT j := by
  by_cases h : j = t
  · rw [h, getT_setT]
  · exact getT_setT_ne _ _ _ _ h

/-! ### The outputs of a firing tally (R357, R365) -/

/-- What a firing makes of a wake wire: its pulse begins or goes on, or the wire is marked. -/
def State.wireFired (s : State) (x : Wire) : Wire := if s.held then { x with marked := true } else x.fire s.clk.gclk

/-- R357: the pulse of a wire that fires begins now, or goes on when one is in progress. -/
theorem wireFired_eq (s : State) (x : Wire) : s.wireFired x = if s.eng.state = .safe then { x with marked := true } else { x with
    firedAt := some s.clk.gclk
    since := match x.firedAt with
      | some a => if s.clk.gclk ≤ a + 2 then x.since else s.clk.gclk
      | none => s.clk.gclk } := by
  cases h : x.firedAt <;> simp [State.wireFired, State.held, Wire.fire, Wire.busy, h]

/-- A wire that fires again in its GCLK stays as it is. -/
theorem wireFired_wireFired (s : State) (x : Wire) : s.wireFired (s.wireFired x) = s.wireFired x := by
  unfold State.wireFired
  split
  · rfl
  · simp [Wire.fire, Wire.busy]

theorem fireWire_wireFired (s : State) (v : Wake) (x : Wire) : (fireWire s v).wireFired x = s.wireFired x := by
  obtain ⟨l, h⟩ := fireWire_eq s v
  rw [h]; rfl

/-- A firing reaches the wire that the wake binding names, and no other. -/
theorem fireWire_getD (s : State) (v : Wake) (w : Nat) : (fireWire s v).tal.wire.getD {} w
    = if v = { valid := true, wire := w } then s.wireFired (s.tal.wire.getD {} w) else s.tal.wire.getD {} w := by
  obtain ⟨valid, wire⟩ := v
  cases valid
  · simp [fireWire]
  by_cases hw : wire = w
  · simp [fireWire, hw, State.wireFired]
  · simp [fireWire, hw, getD_put_ne _ _ _ _ _ (Ne.symm hw)]

/-- Of several wake bindings, each wire named by one or more fires once. -/
theorem fireWires_getD (l : List Wake) (s : State) (w : Nat) : (each s l fireWire).tal.wire.getD {} w
    = if { valid := true, wire := w } ∈ l then s.wireFired (s.tal.wire.getD {} w) else s.tal.wire.getD {} w := by
  induction l generalizing s with
  | nil => simp [each]
  | cons v l ih =>
    have hstep : each s (v :: l) fireWire = each (fireWire s v) l fireWire := rfl
    rw [hstep, ih, fireWire_getD, fireWire_wireFired]
    by_cases hv : v = { valid := true, wire := w }
    · simp [hv, wireFired_wireFired]
    · simp [hv, Ne.symm hv]

theorem fireWires_sig (l : List Wake) (s : State) : (each s l fireWire).sig = s.sig := by
  obtain ⟨w, h⟩ := fireWires_eq l s
  rw [h]

theorem pulse_wire (s : State) (n : Nat) : (pulse s n).tal.wire = s.tal.wire := by
  obtain ⟨l, h⟩ := pulse_eq s n
  rw [h]

/-- The wires of a firing are fired by its wake bindings alone. -/
theorem fireOutputs_wire (s : State) (t : Nat) : (fireOutputs s t).tal.wire
    = (each s (s.getT t).wakes fireWire).tal.wire := by
  unfold fireOutputs
  dsimp only
  split
  · exact pulse_wire ..
  · rfl

theorem fireOutputs_hst (s : State) (t : Nat) : (fireOutputs s t).hst
    = s.hst.map fun (c, h) => (c, if watches s c t then { h with pending := true } else h) := by
  obtain ⟨w, l, h⟩ := fireOutputs_eq s t
  rw [h]

/-- A tally that names no source leaves the signal unit alone. -/
theorem fireOutputs_sig_of_not_sigEn {s : State} {t : Nat} (h : (s.start.tal.tally.getD {} t).sigEn = false) :
    (fireOutputs s t).sig = s.sig := by
  simp [fireOutputs, h, fireWires_sig]

/-- A tally's pulse source rises when the tally fires. -/
theorem fireOutputs_rise {s : State} {t : Nat} (h : (s.start.tal.tally.getD {} t).sigEn = true)
    (hp : srcIsPulse (s.start.tal.tally.getD {} t).sigSrc = true) :
    ((fireOutputs s t).getS (s.start.tal.tally.getD {} t).sigSrc).rise = true := by
  simp [fireOutputs, h, pulse_getS _ _ hp]

/-! ### Arrivals by register write (R352) -/

theorem exec_tallyArrive (s : State) (port t : Nat) (kind : BitVec 2) (count : BitVec 16) :
    exec (.tallyArrive port t kind count) s = execTallyArrive port t kind count s := rfl

/-- A write of TAL_ARRIVE adds its count to the arrivals of its kind. -/
theorem exec_tallyArrive_of_reaches {s : State} {port t : Nat} {kind : BitVec 2} {count : BitVec 16}
    (h : Reaches s port (tReg t 0x14)) (hk : kind ≠ 3#2) (hc : count ≠ 0#16) :
    exec (.tallyArrive port t kind count) s = .next (talNote (noteWrite s port (tReg t 0x14)) t fun x => { x with
      normal := x.normal + if kind = 0#2 then count.toNat else 0
      faulted := x.faulted + if kind = 1#2 then count.toNat else 0
      abandoned := x.abandoned + if kind = 2#2 then count.toNat else 0 }) := by
  have hkind : kind = 0#2 ∨ kind = 1#2 ∨ kind = 2#2 := by bv_omega
  rw [exec_tallyArrive, execTallyArrive, wr_reaches h]
  rcases hkind with rfl | rfl | rfl <;> simp [hc, arrOf, arrive]

/-! ### The parts of the statement -/

theorem tallyArrivals : Claims.TallyArrivals := by
  refine ⟨?write, ?count⟩
  case write =>
    intro s port t kind count hr hk hc
    exact ⟨_, exec_tallyArrive_of_reaches hr hk hc, getD_put_self .., fun j hj => getD_put_ne _ _ _ _ _ hj, rfl⟩
  case count =>
    intro s t n m k hpos
    refine ⟨fun ht => ?bound, fun ht => ?unbound⟩
    case bound =>
      obtain ⟨w, h, l, he⟩ := talStep_arrivals_eq ht n m k
      have hsum : n + m + k ≠ 0 := Nat.ne_of_gt hpos
      refine ⟨?tally, fun j hj => talStep_getT_ne _ _ _ _ hj, ?_, ?_, ?_⟩
      case tally =>
        have hget : (talStep s t { normal := n, faulted := m, abandoned := k }).getT t = ((s.getT t).counted n m k).1 := by
          rw [he]
          exact getT_setT ..
        rw [hget, Tally.counted, if_neg hsum]
      all_goals
        rw [he]
        rfl
    case unbound =>
      rw [talStep_arrivals_unbound ht]
      exact ⟨rfl, setT_getT_getT s t, rfl⟩

theorem tallyFireOutputs : Claims.TallyFireOutputs := by
  intro s t n m k ht
  have hstep := talStep_arrivals ht n m k
  refine ⟨fun hlt => ?quiet, fun hpos hle => ?fires⟩
  case quiet =>
    rw [hstep, if_neg (by simp [counted_fires, Nat.not_le.mpr hlt])]
    exact ⟨rfl, rfl, rfl⟩
  case fires =>
    rw [hstep, if_pos (by simp [counted_fires, hpos, hle])]
    refine ⟨fun w hw => ?wire, fun c h hmem hsig hval htal => ?host, fun he hp => ?rise, fun he => ?still⟩
    case wire =>
      rw [fireOutputs_wire, fireWires_getD, getT_setT, counted_wakes]
      refine (if_pos hw).trans ?_
      rw [wireFired_eq]
      rfl
    case host =>
      rw [fireOutputs_hst]
      exact List.mem_map.mpr ⟨(c, h), hmem, by simp [watches, hsig, hval, htal]⟩
    case rise => exact fireOutputs_rise (s := s.setT t _) he hp
    case still => exact fireOutputs_sig_of_not_sigEn (s := s.setT t _) he

theorem wireLevels : Claims.WireLevels := by
  intro s n hr
  refine ⟨fun h => ?_, fun h => ?_, fun a hs ha => ?_⟩
  · simp [wireLevel, State.held, h]
  · simp [wireLevel, Wire.high, Wire.busy, h]
  · simp [wireLevel, Wire.high, Wire.busy, State.held, hr, hs, ha, and_comm]

end Sys2Proof.Machine

open Sys2Proof Sys2Proof.Machine

/-- Settles O1: arrivals count as one sum (`takes_arrivals`), and a firing reaches each wire that its wake bindings name once
(`fireWires_getD`). -/
theorem tallyArrivalsAndOutputs : Obligations.TallyArrivalsAndOutputs := by
  unfold Obligations.TallyArrivalsAndOutputs
  exact ⟨tallyArrivals, tallyFireOutputs, wireLevels⟩
end
